-- ==== Sys2Proof/Word.lean ====
section
/-! DEFINITION. The two word types of the block: 32-bit registers (R11, R30) and bytes (R13). -/

namespace Sys2Proof

/-- A register, a bus address or a bus data word: 32 bits (R11, R30, R80). -/
abbrev Word := BitVec 32

/-- A byte, 0..255 (R13). -/
abbrev Byte := BitVec 8

end Sys2Proof
end

