-- ==== Sys2Proof/Config.lean ====
section
/-! DEFINITION. What an implementation fixes (MAX_PAYLOAD and its legal range) and the one free
value of the model: a buffer byte that nothing has written since reset. -/

namespace Sys2Proof

/-- The three byte buffers (R82). -/
inductive Buffer where
  | ibuf
  | obuf
  | pbuf
deriving DecidableEq, Repr

namespace Config

/-- The free value of R84 and R291: what byte `offset` of buffer `b` holds after the `draw`-th reset
while nothing has written it. No body: no proof can learn a value of it, and a claim holds whatever
it is. One draw per reset, buffer and offset, so the byte keeps its value until it is overwritten.
Safe (log entry 2). -/
opaque freeByte : (draw : Nat) → (b : Buffer) → (offset : Nat) → Byte

/-- The reference value of MAX_PAYLOAD, the one every vector of 95_test_vectors.md uses (R8).
It only fills the CAPS register of `State.reset`; every rule reads MAX_PAYLOAD from CAPS. -/
def referenceMaxPayload : Nat := 4096

/-- The largest legal MAX_PAYLOAD (R8). -/
def maxPayloadBound : Nat := 2 ^ 30 - 12

/-- The legal range of MAX_PAYLOAD: 1 ≤ MAX_PAYLOAD ≤ 2^30 − 12 (R8). -/
def legalMaxPayload (n : Nat) : Bool := decide (1 ≤ n ∧ n ≤ maxPayloadBound)

/-- The frame overhead: "Total size = 12 + length bytes" (R9). -/
def frameOverhead : Nat := 12

end Config

end Sys2Proof
end

