-- ==== Sys2Proof/Syntax.lean ====
section
/-! DEFINITION. The commands of the block, one constructor for each row of spec/opcode_table.json,
and the two fields of the one instruction format. -/

namespace Sys2Proof

/-- The six commands (R112). Every operand is implicit: no field of the word carries one. -/
inductive Instr where
  /-- 0x01, the current type from CT_IN (R141). -/
  | ctFromBytes
  /-- 0x02, the current type from the first four bytes of IBUF (R142). -/
  | ctFromText
  /-- 0x10, the CRC of IBUF[0..IN_LEN) (R185). -/
  | crcBuf
  /-- 0x20, the current chunk from the current type and IBUF[0..IN_LEN) (R211). -/
  | chunkNew
  /-- 0x21, the current chunk's frame to OBUF (R212). -/
  | chunkSerialize
  /-- 0x22, the current chunk from a frame in IBUF (R213). -/
  | chunkParse
deriving DecidableEq, Repr

/-- The one instruction format, the 32-bit word written to CMD (R110). -/
structure CommandFields where
  /-- Bits 7:0. -/
  op   : BitVec 8
  /-- Bits 31:8, reserved, must be 0. -/
  rsvd : BitVec 24
deriving DecidableEq, Repr

end Sys2Proof
end

