-- ==== Sys2Proof/WellFormed.lean ====
section
/-! DEFINITION. Well-formedness of what the syntax lets one write: the fields of a command word
(R110) and a command. -/

namespace Sys2Proof

/-- The six opcodes of R112. -/
def opcodes : List (BitVec 8) := [0x01, 0x02, 0x10, 0x20, 0x21, 0x22]

/-- R110: "A command is legal iff RSVD = 0 and OP is one of the six opcodes". -/
def CommandFields.wellFormed (c : CommandFields) : Bool :=
  decide (c.rsvd = 0) && decide (c.op ∈ opcodes)

/-- A command carries no operand (R112), so each of the six is well formed. -/
def Instr.wellFormed (i : Instr) : Bool :=
  match i with
  | .ctFromBytes => true
  | .ctFromText => true
  | .crcBuf => true
  | .chunkNew => true
  | .chunkSerialize => true
  | .chunkParse => true

end Sys2Proof
end

