-- ==== Sys2Proof/Decode.lean ====
section
/-! DEFINITION. Decoding of a command word, total on all 2^32 words (R114), and the encoder (R118). -/

namespace Sys2Proof

/-- The OP and RSVD fields of a command word (R110). -/
def fieldsOf (w : Word) : CommandFields :=
  { op := w.extractLsb' 0 8, rsvd := w.extractLsb' 8 24 }

/-- The command an OP byte stands for (R112); `none` for every other byte, 0x00 included (R115). -/
def commandOf (op : BitVec 8) : Option Instr :=
  if op = 0x01 then some .ctFromBytes
  else if op = 0x02 then some .ctFromText
  else if op = 0x10 then some .crcBuf
  else if op = 0x20 then some .chunkNew
  else if op = 0x21 then some .chunkSerialize
  else if op = 0x22 then some .chunkParse
  else none

/-- R114: `decode`. `none` is ILLEGAL: RSVD ≠ 0, or an OP outside the six. -/
def decode (w : Word) : Option Instr :=
  if (fieldsOf w).rsvd = 0 then commandOf (fieldsOf w).op else none

/-- The OP byte of a command (R112). -/
def opcodeOf (i : Instr) : BitVec 8 :=
  match i with
  | .ctFromBytes => 0x01
  | .ctFromText => 0x02
  | .crcBuf => 0x10
  | .chunkNew => 0x20
  | .chunkSerialize => 0x21
  | .chunkParse => 0x22

/-- The command word: OP in bits 7:0, RSVD = 0 in bits 31:8 (R110, R118). -/
def encode (i : Instr) : Word := (0 : BitVec 24) ++ opcodeOf i

/-- The command the decoder reads from a row of spec/opcode_table.json laid out as a command word:
bit 0 of `w` is bit 0 of the word and every bit above `nbits` is 0. A command is exactly one 32-bit
word (R111), so a longer row is refused. -/
def decodeTableWord (nbits w : Nat) : Option Instr :=
  if nbits ≤ 32 then decode (BitVec.ofNat 32 (w % 2 ^ nbits)) else none

end Sys2Proof
end

