-- ==== Sys2Proof/Machine/State.lean ====
section
/-! DEFINITION. The state of the block and of its port as plain data, the state after reset, and the
reasons a step can stop. -/

namespace Sys2Proof.Machine

/-- The reasons a step stops. No command's meaning ends in one: a failed command is reported as a
result code at its commit (R260). -/
inductive Fault where
  /-- rst_n rose before a rising edge of clk had been seen while it was low. Raised by the reset
  line's release. R290 says the line "must be held low for at least one rising edge of clk" and
  states no state for a shorter pulse. DESIGN CHOICE, safe, log entry 7. -/
  | resetPulseTooShort
deriving DecidableEq, Repr

/-- The reasons a step is refused. -/
inductive Refusal where
  /-- A command that has no meaning in the model yet. Raised by an arm of `exec` only; no arm raises
  it now. Safe. -/
  | notModelled (mnemonic : String)
deriving DecidableEq, Repr

/-- The result codes of STATUS.ERR (R262). Every other code is reserved and never produced, so none
of them is a value of this type. -/
inductive ResultCode where
  | ok
  | notAlphabetic
  | tooShort
  | truncated
  | checksumMismatch
  /-- Reserved, raised by no command (R262, R6). -/
  | decodeError
  | illegalCommand
  | typeUnset
  | noChunk
  | capacity
deriving DecidableEq, Repr

/-- A buffer's written bytes: offset and byte, offsets strictly rising (`Memory.wf`). An offset that
is not listed has not been written since reset; it reads as the free draw of its place
(`readByte`; R84, R291; log entry 2). -/
abbrev Memory := List Host.Cell

/-- The two kinds of bus transaction (R80). -/
inductive AccessKind where
  | read
  | write
deriving DecidableEq, Repr

/-- The sizes of a bus transaction: 1, 2 or 4 bytes (R80). -/
inductive AccessSize where
  | one
  | two
  | four
deriving DecidableEq, Repr

/-- A bus request (R80). `wdata` means nothing on a read. -/
structure Request where
  kind  : AccessKind
  addr  : Word
  size  : AccessSize
  wdata : Word
deriving DecidableEq, Repr

/-- The two bus responses (R80). -/
inductive Resp where
  | okay
  | slverr
deriving DecidableEq, Repr

/-- A bus response (R80). `rdata` is `none` on an OKAY write, for which no rule states a value. -/
structure Response where
  resp  : Resp
  rdata : Option Word
deriving DecidableEq, Repr

/-- What the host does next (R96, R116, R117): the host agent's program is a list of these. -/
inductive HostOp where
  /-- One bus transaction. -/
  | bus (r : Request)
  /-- The pseudo-instruction WAIT: reads of STATUS, up to the first with bit 0 = 0. -/
  | wait
  /-- One element of the pseudo-instruction COPY: `R8 src -> t` and then `W8 dst, t`, two
  transactions. -/
  | copyByte (src dst : Word)
deriving DecidableEq, Repr

/-- Who moves next. Plain data fixes the one total order of host transactions, commits and edges
that R96 speaks of; a claim for every list of turns is a claim for every order. -/
inductive Turn where
  /-- The host performs its next transaction. -/
  | host
  /-- A rising edge of clk; with `commit` the engine commits the command in flight on it. -/
  | clk (commit : Bool)
  /-- rst_n goes low. -/
  | rstFall
  /-- rst_n goes high. -/
  | rstRise
deriving DecidableEq, Repr

/-- The port rst_n (R80, R290); when low, whether a rising edge of clk has been seen since it fell. -/
inductive RstLine where
  | high
  | low (edgeSeen : Bool)
deriving DecidableEq, Repr

/-- The state: the architectural state of R30 (STATUS by its fields, R34; PROPS and CH_PROPS are not
stored, R42 and R44; CMD holds nothing, R33), the ports of R80, and the model's own host agent,
schedule and draw counter. -/
structure State where
  /-- STATUS.OVR (R36). -/
  ovr       : Bool
  /-- STATUS.ERR (R37). -/
  err       : ResultCode
  /-- STATUS.LAST_OP (R38). -/
  lastOp    : Byte
  /-- pend_valid, which STATUS.BUSY mirrors (R35, R49): one store for both. -/
  pendValid : Bool
  /-- pend_cmd (R49). -/
  pendCmd   : Word
  /-- ERR_INFO (R48). -/
  errInfo   : Word
  /-- CAPS, the constant MAX_PAYLOAD (R50). -/
  caps      : Word
  /-- CT_IN (R39). -/
  ctIn      : Word
  /-- IN_LEN (R40). -/
  inLen     : Word
  /-- TYPE (R41). -/
  typeReg   : Word
  /-- TYPE_VALID (R45). -/
  typeValid : Bool
  /-- CH_TYPE (R43). -/
  chType    : Word
  /-- CH_VALID (R45). -/
  chValid   : Bool
  /-- CH_LENGTH (R46). -/
  chLength  : Word
  /-- CH_CRC (R46). -/
  chCrc     : Word
  /-- OUT_LEN (R47). -/
  outLen    : Word
  /-- CONSUMED (R47). -/
  consumed  : Word
  /-- CRC_OUT (R47). -/
  crcOut    : Word
  /-- IBUF (R82). -/
  ibuf      : Memory
  /-- OBUF (R82). -/
  obuf      : Memory
  /-- PBUF (R82). -/
  pbuf      : Memory
  /-- The port rst_n (R290). -/
  rst       : RstLine
  /-- The model's own: how many resets there have been, which selects the free draws of R291. -/
  draws     : Nat
  /-- The host agent: what it has still to do, in order (R96). -/
  host      : List HostOp
  /-- The schedule: who moves next (R96); when it is empty the engine is served first. -/
  turns     : List Turn
  /-- The responses the port has given, oldest first (R80). -/
  responses : List Response
deriving DecidableEq, Repr

/-- The reset table of R290 for a block whose MAX_PAYLOAD is `maxPayload`, after the `draws`-th
reset: buffers hold nothing written (R291), rst_n is high, no host program is placed. pend_cmd has no
stated reset value; 0 is a DESIGN CHOICE (unsafe, log entry 4). -/
def State.resetOf (maxPayload : Word) (draws : Nat) : State :=
  { ovr := false, err := .ok, lastOp := 0, pendValid := false, pendCmd := 0, errInfo := 0
    caps := maxPayload, ctIn := 0, inLen := 0, typeReg := 0, typeValid := false
    chType := 0, chValid := false, chLength := 0, chCrc := 0
    outLen := 0, consumed := 0, crcOut := 0
    ibuf := [], obuf := [], pbuf := []
    rst := .high, draws := draws, host := [], turns := [], responses := [] }

/-- The machine right after reset (R290), with the reference MAX_PAYLOAD of R8 (DESIGN CHOICE,
unsafe for claims about it alone, log entry 1). -/
def State.reset : State := State.resetOf (BitVec.ofNat 32 Config.referenceMaxPayload) 0

end Sys2Proof.Machine
end

