-- ==== Sys2Proof/Machine/Ops.lean ====
section
/-! DEFINITION. The shared operations: byte packing, the buffers, acceptance, the two commits of
R266 (the error commit among them, this block's only "exception"), and the register writes that the
commands and the host perform. -/

namespace Sys2Proof.Machine

/-- `bytesBE32(v)`: bytes v[31:24], v[23:16], v[15:8], v[7:0] (R14). -/
def bytesBE32 (v : Word) : List Byte :=
  [v.extractLsb' 24 8, v.extractLsb' 16 8, v.extractLsb' 8 8, v.extractLsb' 0 8]

/-- `BE32(b0,b1,b2,b3)`: four bytes read as a big-endian 32-bit value (R14). -/
def be32 (b0 b1 b2 b3 : Byte) : Word := b0 ++ b1 ++ b2 ++ b3

/-- What has been written at offset `a`; `none` where nothing has since reset. -/
def Memory.lookup : Memory → Nat → Option Byte
  | [], _ => none
  | c :: m, a => if c.1 = a then some c.2 else Memory.lookup m a

/-- The cells that hold the bytes `bs` at `k`, `k + 1`, … -/
def cellsAt (k : Nat) : List Byte → Memory
  | [] => []
  | b :: bs => (k, b) :: cellsAt (k + 1) bs

/-- `BUF[k..k+|bs|) <- bs`: exactly these bytes are overwritten (R84). -/
def Memory.store (m : Memory) (k : Nat) (bs : List Byte) : Memory :=
  m.filter (fun c => decide (c.1 < k)) ++ cellsAt k bs
    ++ m.filter (fun c => decide (k + bs.length ≤ c.1))

/-- Offsets strictly rising, the first at least `lo`, all below `size`. -/
def Memory.risingFrom (lo size : Nat) : Memory → Bool
  | [] => true
  | c :: m => decide (lo ≤ c.1) && decide (c.1 < size) && Memory.risingFrom (c.1 + 1) size m

/-- The canonical form of a buffer of `size` bytes: offsets strictly rising and inside the buffer. -/
def Memory.wf (size : Nat) (m : Memory) : Bool := Memory.risingFrom 0 size m

/-- MAX_PAYLOAD, as CAPS holds it (R50). -/
def maxPayload (s : State) : Nat := s.caps.toNat

/-- The size of a buffer in bytes (R9, R82). -/
def bufferSize (s : State) (b : Buffer) : Nat :=
  match b with
  | .ibuf => maxPayload s + Config.frameOverhead
  | .obuf => maxPayload s + Config.frameOverhead
  | .pbuf => maxPayload s

/-- The written bytes of a buffer. -/
def bufferCells (s : State) (b : Buffer) : Memory :=
  match b with
  | .ibuf => s.ibuf
  | .obuf => s.obuf
  | .pbuf => s.pbuf

/-- `BUF[i]`: the byte last written there, else the free draw of its place (R84, R291). -/
def readByte (s : State) (b : Buffer) (i : Nat) : Byte :=
  (Memory.lookup (bufferCells s b) i).getD (Config.freeByte s.draws b i)

/-- `BUF[k..k+n)` (R13). -/
def readBytes (s : State) (b : Buffer) (k : Nat) : Nat → List Byte
  | 0 => []
  | n + 1 => readByte s b k :: readBytes s b (k + 1) n

/-- The big-endian 4-byte field at offset `k` of a buffer (R90). -/
def readWord (s : State) (b : Buffer) (k : Nat) : Word :=
  be32 (readByte s b k) (readByte s b (k + 1)) (readByte s b (k + 2)) (readByte s b (k + 3))

/-- What every commit writes beside its results: STATUS.ERR, ERR_INFO and BUSY (R266, R293). -/
def finish (e : ResultCode) (info : Word) (s : State) : State :=
  { s with err := e, errInfo := info, pendValid := false }

/-- `raise E(info)`, the error commit: STATUS.ERR ← code, ERR_INFO ← info, BUSY ← 0, and nothing
else (R261, R266). Nothing is saved and nothing is entered, so there is no return (R271). -/
def raise (e : ResultCode) (info : Word) (s : State) : State := finish e info s

/-- The end of a successful commit: STATUS.ERR ← OK, ERR_INFO ← 0, BUSY ← 0 (R266). -/
def succeed (s : State) : State := finish .ok 0 s

/-- TYPE ← t and TYPE_VALID ← 1 (R41). -/
def setType (t : Word) (s : State) : State :=
  { s with typeReg := t, typeValid := true }

/-- CRC_OUT ← c (R47). -/
def setCrcOut (c : Word) (s : State) : State := { s with crcOut := c }

/-- The current chunk is replaced whole: CH_TYPE, CH_LENGTH, CH_CRC, PBUF[0..|p|) and CH_VALID (R54). -/
def setChunk (t len crc : Word) (p : List Byte) (s : State) : State :=
  { s with chType := t, chLength := len, chCrc := crc, pbuf := Memory.store s.pbuf 0 p
           chValid := true }

/-- OBUF[0..|f|) ← f and OUT_LEN (R47). -/
def setOutput (f : List Byte) (len : Word) (s : State) : State :=
  { s with obuf := Memory.store s.obuf 0 f, outLen := len }

/-- CONSUMED ← n (R47). -/
def setConsumed (n : Word) (s : State) : State := { s with consumed := n }

/-- Acceptance of the word `w`: pend_valid and BUSY, pend_cmd, OVR ← 0, LAST_OP ← w[7:0], at one
instant; ERR and ERR_INFO stay (R292). -/
def accept (w : Word) (s : State) : State :=
  { s with pendValid := true, pendCmd := w, ovr := false, lastOp := w.extractLsb' 0 8 }

/-- A host write dropped because BUSY = 1: OVR ← 1 and nothing else (R36, R295). -/
def dropWrite (s : State) : State := { s with ovr := true }

/-- CT_IN ← w (R39). -/
def setCtIn (w : Word) (s : State) : State := { s with ctIn := w }

/-- IN_LEN ← w (R40). -/
def setInLen (w : Word) (s : State) : State := { s with inLen := w }

/-- IBUF[i] ← b (R89). -/
def setIbufByte (i : Nat) (b : Byte) (s : State) : State :=
  { s with ibuf := Memory.store s.ibuf i [b] }

/-- The port gives a response (R80). -/
def respond (r : Response) (s : State) : State := { s with responses := s.responses ++ [r] }

/-- What the host has still to do. -/
def setHost (p : List HostOp) (s : State) : State := { s with host := p }

/-- The schedule moves on by one turn. -/
def dropTurn (s : State) : State := { s with turns := s.turns.tail }

/-- rst_n goes low: the command in flight is abandoned and no edge has been seen yet (R290). -/
def assertReset (s : State) : State := { s with pendValid := false, rst := .low false }

/-- A rising edge of clk: it matters only to a reset pulse (R290). -/
def noteEdge (s : State) : State :=
  { s with rst := match s.rst with
                  | .high => .high
                  | .low _ => .low true }

/-- rst_n goes high after a long enough pulse: the reset table of R290, with CAPS constant (R50) and
fresh free draws for every buffer byte (R291). The host agent, the schedule and the responses
already given lie outside the block and stay (log entries 6 and 11). -/
def releaseReset (s : State) : State :=
  { State.resetOf s.caps (s.draws + 1) with
    host := s.host, turns := s.turns, responses := s.responses }

end Sys2Proof.Machine
end

