-- ==== Sys2Proof/Machine/Operands.lean ====
section
/-! DEFINITION. The operand forms of the commands (R83, R113): the code in CT_IN, the count IN_LEN,
the bytes of IBUF, the fields of a frame in IBUF, and the alphabetic check of a code (R140). -/

namespace Sys2Proof.Machine

/-- `isAlpha(b)`: 0x41..0x5A or 0x61..0x7A (R16). -/
def isAlpha (b : Byte) : Bool :=
  decide (0x41 ≤ b.toNat ∧ b.toNat ≤ 0x5A) || decide (0x61 ≤ b.toNat ∧ b.toNat ≤ 0x7A)

/-- `firstNonAlpha(c)`: the least index whose byte is not alphabetic, or none (R140). -/
def firstNonAlpha (c : List Byte) : Option Nat := c.findIdx? (fun b => !isAlpha b)

/-- A 32-bit packed code all of whose four bytes are alphabetic (R140). -/
def alphaCode (t : Word) : Bool := (bytesBE32 t).all isAlpha

/-- The 4-byte code in CT_IN (R113). -/
def ctInCode (s : State) : List Byte := bytesBE32 s.ctIn

/-- IN_LEN as an unsigned byte count (R113). -/
def inCount (s : State) : Nat := s.inLen.toNat

/-- IBUF[0..IN_LEN) (R83). -/
def inputBytes (s : State) : List Byte := readBytes s .ibuf 0 (inCount s)

/-- IN_LEN exceeds IBUF_SIZE: the CAPACITY check of CT_FROM_TEXT, CRC_BUF and CHUNK_PARSE (R262). -/
def overIbuf (s : State) : Bool := decide (inCount s > bufferSize s .ibuf)

/-- IN_LEN exceeds MAX_PAYLOAD: the CAPACITY check of CHUNK_NEW (R262). -/
def overPayload (s : State) : Bool := decide (inCount s > maxPayload s)

/-- The first four bytes of the text in IBUF, packed (R142). -/
def textCode (s : State) : Word := readWord s .ibuf 0

/-- The length field L of a frame in IBUF (R113). -/
def frameLength (s : State) : Word := readWord s .ibuf 0

/-- The type code of a frame in IBUF: IBUF[4..8), packed (R113). -/
def frameType (s : State) : Word := readWord s .ibuf 4

/-- The payload of a frame in IBUF: IBUF[8..8+L) (R213). -/
def framePayload (s : State) : List Byte := readBytes s .ibuf 8 (frameLength s).toNat

/-- The declared CRC of a frame in IBUF: the four bytes after the payload (R113). -/
def frameCrc (s : State) : Word := readWord s .ibuf (8 + (frameLength s).toNat)

/-- `data()` of the current chunk: PBUF[0..CH_LENGTH) (R82). -/
def chunkData (s : State) : List Byte := readBytes s .pbuf 0 s.chLength.toNat

end Sys2Proof.Machine
end

