-- ==== Sys2Proof/Machine/Crc.lean ====
section
/-! DEFINITION. The crc32_iso_hdlc unit (41_crc32.md): the function and the command CRC_BUF. -/

namespace Sys2Proof.Machine

/-- The polynomial in reflected form (R180). -/
def crcPoly : Word := 0xEDB88320

/-- One bit step: shift right, and the polynomial where bit 0 was 1 (R181). -/
def crcBit (r : Word) : Word := if r.getLsbD 0 then (r >>> 1) ^^^ crcPoly else r >>> 1

/-- `n` bit steps. -/
def crcBits (r : Word) : Nat → Word
  | 0 => r
  | n + 1 => crcBits (crcBit r) n

/-- The byte step: exclusive or with the byte, then 8 bit steps (R181). -/
def crcByte (r : Word) (b : Byte) : Word := crcBits (r ^^^ b.zeroExtend 32) 8

/-- `crc32(s)` (R181): from 0xFFFFFFFF over the bytes in order, then the final exclusive or. -/
def crc32 (s : List Byte) : Word := s.foldl crcByte 0xFFFFFFFF ^^^ 0xFFFFFFFF

/-- `chunkCrc(p, t) = crc32(p ‖ bytesBE32(t))`: payload first, then the type (R184). -/
def chunkCrc (p : List Byte) (t : Word) : Word := crc32 (p ++ bytesBE32 t)

/-- CRC_BUF (R185). -/
def execCrcBuf (s : State) : Host.Outcome State Fault Refusal :=
  if overIbuf s then .next (raise .capacity s.inLen s)
  else .next (succeed (setCrcOut (crc32 (inputBytes s)) s))

end Sys2Proof.Machine
end

