-- ==== Sys2Proof/Machine/Chunk.lean ====
section
/-! DEFINITION. chunk_parser_framer (42_chunk.md): the frame and the three commands on the current
chunk. -/

namespace Sys2Proof.Machine

/-- `frame(t, p, c) = bytesBE32(|p|) ‖ bytesBE32(t) ‖ p ‖ bytesBE32(c)`, with the length field
given as the word it is held in (R210). -/
def frame (len t : Word) (p : List Byte) (c : Word) : List Byte :=
  bytesBE32 len ++ bytesBE32 t ++ p ++ bytesBE32 c

/-- CHUNK_NEW (R211): TYPE_UNSET, then CAPACITY, then the new chunk. -/
def execChunkNew (s : State) : Host.Outcome State Fault Refusal :=
  if !s.typeValid then .next (raise .typeUnset 0 s)
  else if overPayload s then .next (raise .capacity s.inLen s)
  else
    .next (succeed
      (setChunk s.typeReg s.inLen (chunkCrc (inputBytes s) s.typeReg) (inputBytes s) s))

/-- CHUNK_SERIALIZE (R212): NO_CHUNK, else the frame with CH_CRC as stored. -/
def execChunkSerialize (s : State) : Host.Outcome State Fault Refusal :=
  if !s.chValid then .next (raise .noChunk 0 s)
  else
    .next (succeed
      (setOutput (frame s.chLength s.chType (chunkData s) s.chCrc) (12 + s.chLength) s))

/-- CHUNK_PARSE (R213): the checks of R267 in order, then the parsed chunk with the declared CRC as
stored (R219). Steps 4 and 5 are both TRUNCATED (R216). -/
def execChunkParse (s : State) : Host.Outcome State Fault Refusal :=
  let len := (frameLength s).toNat
  if overIbuf s then .next (raise .capacity s.inLen s)
  else if inCount s < 12 then .next (raise .tooShort s.inLen s)
  else
    match firstNonAlpha (bytesBE32 (frameType s)) with
    | some i => .next (raise .notAlphabetic (BitVec.ofNat 32 i) s)
    | none =>
      if inCount s - 8 < len then .next (raise .truncated (frameLength s) s)
      else if inCount s - 12 < len then .next (raise .truncated (frameLength s) s)
      else if chunkCrc (framePayload s) (frameType s) ≠ frameCrc s then
        .next (raise .checksumMismatch (chunkCrc (framePayload s) (frameType s)) s)
      else
        .next (succeed (setConsumed (12 + frameLength s)
          (setChunk (frameType s) (frameLength s) (frameCrc s) (framePayload s) s)))

end Sys2Proof.Machine
end

