-- ==== Sys2Proof/Machine/ChunkType.lean ====
section
/-! DEFINITION. The commands that construct the current type (40_chunk_type.md). -/

namespace Sys2Proof.Machine

/-- The alphabetic check of a packed code and the commit that follows it: NOT_ALPHABETIC(i), or
TYPE ← t with TYPE_VALID ← 1 (R140, R141, R142). -/
def constructType (t : Word) (s : State) : State :=
  match firstNonAlpha (bytesBE32 t) with
  | some i => raise .notAlphabetic (BitVec.ofNat 32 i) s
  | none => succeed (setType t s)

/-- CT_FROM_BYTES (R141). -/
def execCtFromBytes (s : State) : Host.Outcome State Fault Refusal :=
  .next (constructType s.ctIn s)

/-- CT_FROM_TEXT (R142): CAPACITY, then TOO_SHORT, then the alphabetic check of IBUF[0..4). -/
def execCtFromText (s : State) : Host.Outcome State Fault Refusal :=
  if overIbuf s then .next (raise .capacity s.inLen s)
  else if inCount s < 4 then .next (raise .tooShort s.inLen s)
  else .next (constructType (textCode s) s)

end Sys2Proof.Machine
end

