-- ==== Sys2Proof/Machine/Dispatch.lean ====
section
/-! DEFINITION. One arm per command: what its commit does (R293). -/

namespace Sys2Proof.Machine

def exec (i : Instr) (s : State) : Host.Outcome State Fault Refusal :=
  match i with
  | .ctFromBytes => Sys2Proof.Machine.execCtFromBytes s
  | .ctFromText => Sys2Proof.Machine.execCtFromText s
  | .crcBuf => Sys2Proof.Machine.execCrcBuf s
  | .chunkNew => Sys2Proof.Machine.execChunkNew s
  | .chunkSerialize => Sys2Proof.Machine.execChunkSerialize s
  | .chunkParse => Sys2Proof.Machine.execChunkParse s

end Sys2Proof.Machine
end

