-- ==== Sys2Proof/Machine/Engine.lean ====
section
/-! DEFINITION. Whose turn it is, the reset line's release, and the commit of an illegal command. -/

namespace Sys2Proof.Machine

/-- Whose turn it is: the head of the schedule. With no schedule left, an accepted command commits
and a reset pulse gets its edge (the fairness of R10 and R298), and otherwise the host
moves (DESIGN CHOICE, unsafe for claims about an empty schedule, log entry 5). -/
def nextTurn (s : State) : Turn :=
  match s.turns with
  | t :: _ => t
  | [] => if s.pendValid || decide (s.rst = .low false) then .clk true else .host

/-- Whether the engine commits on this edge: a command is in flight and rst_n is high (R290, R293). -/
def commits (commit : Bool) (s : State) : Bool :=
  commit && s.pendValid && decide (s.rst = .high)

/-- The commit of a word that decodes as ILLEGAL: ILLEGAL_COMMAND(w) and nothing else (R264). -/
def commitIllegal (s : State) : State := raise .illegalCommand s.pendCmd s

/-- rst_n rises: the reset table after a pulse that saw an edge, a fault after one that did not
(R290), nothing if it was high. -/
def resetRise (s : State) : Host.Outcome State Fault Refusal :=
  match s.rst with
  | .high => .next s
  | .low true => .next (releaseReset s)
  | .low false => .fault .resetPulseTooShort

/-- rst_n falls; nothing if it was low already. -/
def resetFall (s : State) : State :=
  match s.rst with
  | .high => assertReset s
  | .low _ => s

/-- The command word of a table row: the bits above `nbits` are 0, up to the one 32-bit word. -/
def tableWord (nbits w : Nat) : Word := BitVec.ofNat 32 (w % 2 ^ nbits)

/-- The state with the word `w` accepted, rst_n high, and a committing edge as the next turn. -/
def fetchState (w : Word) (s : State) : State :=
  { accept w s with rst := .high, turns := .clk true :: s.turns }

end Sys2Proof.Machine
end

