-- ==== Sys2Proof/Machine/Flags.lean ====
section
/-! DEFINITION. The flags: the property extractor (R150) and the words that STATUS, PROPS and
CH_PROPS read as (R34, R42, R44). -/

namespace Sys2Proof.Machine

/-- One bit as a 32-bit word with that bit in position `k`. -/
def bitAt (k : Nat) (b : Bool) : Word := if b then (1 : Word) <<< k else 0

/-- The bitfield_property_extractor `props(t, v)` (R150): CRIT, PUB, RSV, SAFE, VALID = RSV, and the
validity flag in bit 8; 0 when v = 0. -/
def props (t : Word) (v : Bool) : Word :=
  if v then
    bitAt 0 (!t.getLsbD 29) ||| bitAt 1 (!t.getLsbD 21) ||| bitAt 2 (!t.getLsbD 13)
      ||| bitAt 3 (t.getLsbD 5) ||| bitAt 4 (!t.getLsbD 13) ||| bitAt 8 true
  else 0

/-- PROPS, at every instant props(TYPE, TYPE_VALID) (R42). -/
def propsWord (s : State) : Word := props s.typeReg s.typeValid

/-- CH_PROPS, at every instant props(CH_TYPE, CH_VALID) (R44). -/
def chPropsWord (s : State) : Word := props s.chType s.chValid

/-- The number of a result code (R262). -/
def ResultCode.code (e : ResultCode) : Byte :=
  match e with
  | .ok => 0x00
  | .notAlphabetic => 0x01
  | .tooShort => 0x02
  | .truncated => 0x03
  | .checksumMismatch => 0x04
  | .decodeError => 0x05
  | .illegalCommand => 0x10
  | .typeUnset => 0x11
  | .noChunk => 0x12
  | .capacity => 0x13

/-- STATUS as it reads: 0 in 31:24, LAST_OP in 23:16, ERR in 15:8, 0 in 7:2, OVR in 1, BUSY in 0
(R34). -/
def statusWord (s : State) : Word :=
  (0 : BitVec 8) ++ s.lastOp ++ s.err.code ++ (0 : BitVec 6) ++ BitVec.ofBool s.ovr
    ++ BitVec.ofBool s.pendValid

end Sys2Proof.Machine
end

