-- ==== Sys2Proof/Machine/Bus.lean ====
section
/-! DEFINITION. The host bus (20_memory.md): windows, register map, access rights, responses. -/

namespace Sys2Proof.Machine

/-- The 15 registers (R31). -/
inductive Reg where
  | cmd | status | errInfo | caps | ctIn | inLen | type | props | chType | chProps
  | chLength | chCrc | outLen | consumed | crcOut
deriving DecidableEq, Repr

/-- The offset of a register (R31). -/
def regOffset (r : Reg) : Nat :=
  match r with
  | .cmd => 0x00
  | .status => 0x04
  | .errInfo => 0x08
  | .caps => 0x0C
  | .ctIn => 0x10
  | .inLen => 0x14
  | .type => 0x18
  | .props => 0x1C
  | .chType => 0x20
  | .chProps => 0x24
  | .chLength => 0x28
  | .chCrc => 0x2C
  | .outLen => 0x30
  | .consumed => 0x34
  | .crcOut => 0x38

/-- The register map in the order of R31. -/
def allRegs : List Reg :=
  [.cmd, .status, .errInfo, .caps, .ctIn, .inLen, .type, .props, .chType, .chProps,
   .chLength, .chCrc, .outLen, .consumed, .crcOut]

/-- The register at an offset of the REG window; `none` is a reserved offset (R31, R87). -/
def regAt (off : Nat) : Option Reg := allRegs.find? (fun r => regOffset r == off)

/-- What a register reads as (R31): CMD reads 0 (R33), STATUS, PROPS and CH_PROPS are computed. -/
def readReg (s : State) (r : Reg) : Word :=
  match r with
  | .cmd => 0
  | .status => statusWord s
  | .errInfo => s.errInfo
  | .caps => s.caps
  | .ctIn => s.ctIn
  | .inLen => s.inLen
  | .type => s.typeReg
  | .props => propsWord s
  | .chType => s.chType
  | .chProps => chPropsWord s
  | .chLength => s.chLength
  | .chCrc => s.chCrc
  | .outLen => s.outLen
  | .consumed => s.consumed
  | .crcOut => s.crcOut

/-- A legal write to a register: CMD accepts a command, CT_IN and IN_LEN take the value, each of the
three dropped with OVR ← 1 while BUSY = 1 (R33, R39, R40, R295); a read-only register ignores it and
OVR stays (R87, R295). -/
def writeReg (r : Reg) (w : Word) (s : State) : State :=
  match r with
  | .cmd => if s.pendValid then dropWrite s else accept w s
  | .ctIn => if s.pendValid then dropWrite s else setCtIn w s
  | .inLen => if s.pendValid then dropWrite s else setInLen w s
  | .status => s
  | .errInfo => s
  | .caps => s
  | .type => s
  | .props => s
  | .chType => s
  | .chProps => s
  | .chLength => s
  | .chCrc => s
  | .outLen => s
  | .consumed => s
  | .crcOut => s

/-- The four windows of R81, chosen by addr[31:30]; `none` is REG. -/
def windowOf (a : Word) : Option Buffer :=
  if a.extractLsb' 30 2 = 0 then none
  else if a.extractLsb' 30 2 = 1 then some .ibuf
  else if a.extractLsb' 30 2 = 2 then some .obuf
  else some .pbuf

/-- The offset in a window: addr[29:0] (R81). -/
def offsetOf (a : Word) : Nat := (a.extractLsb' 0 30).toNat

/-- The base address of a buffer's window (R81). -/
def baseOf (b : Buffer) : Word :=
  match b with
  | .ibuf => 0x40000000
  | .obuf => 0x80000000
  | .pbuf => 0xC0000000

/-- OKAY with read data. -/
def okayRead (v : Word) : Response := { resp := .okay, rdata := some v }

/-- OKAY on a write, for which no rule states rdata (DESIGN CHOICE, safe, log entry 8). -/
def okayWrite : Response := { resp := .okay, rdata := none }

/-- SLVERR: no state changes and rdata = 0 (R80). -/
def slvErr : Response := { resp := .slverr, rdata := some 0 }

/-- The only legal access to REG: size 4 with addr[1:0] = 00 (R86). -/
def regLegal (q : Request) : Bool :=
  decide (q.size = .four) && decide (q.addr.extractLsb' 0 2 = 0)

/-- The only legal access to a buffer: size 1 at an offset below its size (R88). -/
def bufLegal (s : State) (b : Buffer) (q : Request) : Bool :=
  decide (q.size = .one) && decide (offsetOf q.addr < bufferSize s b)

/-- A legal access to REG (R86, R87). -/
def regAccess (q : Request) (s : State) : State × Response :=
  match q.kind, regAt (offsetOf q.addr) with
  | .read, some r => (s, okayRead (readReg s r))
  | .read, none => (s, okayRead 0)
  | .write, some r => (writeReg r q.wdata s, okayWrite)
  | .write, none => (s, okayWrite)

/-- A legal-size access to a buffer (R89): every buffer reads; only IBUF is written, dropped with
OVR ← 1 while BUSY = 1. -/
def bufAccess (b : Buffer) (q : Request) (s : State) : State × Response :=
  match q.kind, b with
  | .read, _ => (s, okayRead ((readByte s b (offsetOf q.addr)).zeroExtend 32))
  | .write, .ibuf =>
    (if s.pendValid then dropWrite s
     else setIbufByte (offsetOf q.addr) (q.wdata.extractLsb' 0 8) s, okayWrite)
  | .write, .obuf => (s, slvErr)
  | .write, .pbuf => (s, slvErr)

/-- One bus transaction: its effect and its response (R80 to R89). -/
def busAccess (q : Request) (s : State) : State × Response :=
  match windowOf q.addr with
  | none => if regLegal q then regAccess q s else (s, slvErr)
  | some b => if bufLegal s b q then bufAccess b q s else (s, slvErr)

/-- One bus transaction on the port: the response joins those given (R80). -/
def transact (q : Request) (s : State) : State := respond (busAccess q s).2 (busAccess q s).1

end Sys2Proof.Machine
end

