-- ==== Sys2Proof/Machine/HostAgent.lean ====
section
/-! DEFINITION. The host agent: what one turn of the host does (R96, R101), and the host assembly
notation of R116 and R117 as lists of the host's actions. -/

namespace Sys2Proof.Machine

/-- `MemRead(a, 4)` as a request (R85). -/
def readReq32 (a : Word) : Request := { kind := .read, addr := a, size := .four, wdata := 0 }

/-- `MemWrite(a, 4, v)` as a request (R85). -/
def writeReq32 (a v : Word) : Request := { kind := .write, addr := a, size := .four, wdata := v }

/-- `MemRead(a, 1)` as a request (R85). -/
def readReq8 (a : Word) : Request := { kind := .read, addr := a, size := .one, wdata := 0 }

/-- `MemWrite(a, 1, b)` as a request (R85). -/
def writeReq8 (a : Word) (b : Byte) : Request :=
  { kind := .write, addr := a, size := .one, wdata := b.zeroExtend 32 }

/-- The address a register name stands for (R116). -/
def regAddr (r : Reg) : Word := BitVec.ofNat 32 (regOffset r)

/-- The address `B+k` stands for (R116). Where the sum does not fit the 32-bit address of R80
(PBUF+0x40000000) R116 gives no address; the model takes it modulo 2^32 (DESIGN CHOICE, unsafe, log
entry 14). -/
def bufAddr (b : Buffer) (k : Nat) : Word := baseOf b + BitVec.ofNat 32 k

/-- One action of the host with `rest` to follow: a transaction; a STATUS read that is repeated while
it gives BUSY = 1 (WAIT); or the R8 of a COPY element, which leaves its W8 to do (R117). -/
def hostAct (op : HostOp) (rest : List HostOp) (s : State) : State :=
  match op with
  | .bus q => setHost rest (transact q s)
  | .wait =>
    setHost (if (statusWord s).getLsbD 0 then .wait :: rest else rest)
      (transact (readReq32 (regAddr .status)) s)
  | .copyByte src dst =>
    setHost
      (.bus (writeReq8 dst
        ((((busAccess (readReq8 src) s).2.rdata).getD 0).extractLsb' 0 8)) :: rest)
      (transact (readReq8 src) s)

/-- The host's turn. While rst_n is low the block answers no transaction, so the host has no step
until it rises (R290); with nothing left to do nothing happens. -/
def hostTurn (s : State) : State :=
  match s.rst, s.host with
  | .low _, _ => s
  | .high, [] => s
  | .high, op :: rest => hostAct op rest s

/-- The address operand of a statement (R116). -/
inductive AddrOperand where
  | reg (r : Reg)
  | buf (b : Buffer) (k : Nat)
  | num (a : Word)
deriving DecidableEq, Repr

/-- The address an operand stands for (R116). -/
def AddrOperand.value (a : AddrOperand) : Word :=
  match a with
  | .reg r => regAddr r
  | .buf b k => bufAddr b k
  | .num n => n

/-- The statements of the host assembly notation (R116) and its pseudo-instructions (R117). -/
inductive Stmt where
  | w32 (a : AddrOperand) (v : Word)
  | r32 (a : AddrOperand)
  | w8 (a : AddrOperand) (b : Byte)
  | r8 (a : AddrOperand)
  | cmd (i : Instr)
  | wait
  | run (i : Instr)
  | setLen (n : Word)
  | load (bs : List Byte)
  | dump (b : Buffer) (k n : Nat)
  | copy (n : Nat)
deriving DecidableEq, Repr

/-- `W8 IBUF+k, b0`, `W8 IBUF+(k+1), b1`, … (LOAD, R117). -/
def loadOps (k : Nat) : List Byte → List HostOp
  | [] => []
  | b :: bs => .bus (writeReq8 (bufAddr .ibuf k) b) :: loadOps (k + 1) bs

/-- `R8 B+k`, … , `R8 B+(k+n−1)` (DUMP, R117). -/
def dumpOps (b : Buffer) (k : Nat) : Nat → List HostOp
  | 0 => []
  | n + 1 => .bus (readReq8 (bufAddr b k)) :: dumpOps b (k + 1) n

/-- `R8 OBUF+i -> t`, `W8 IBUF+i, t` for n indices from k (COPY, R117). -/
def copyOps (k : Nat) : Nat → List HostOp
  | 0 => []
  | n + 1 => .copyByte (bufAddr .obuf k) (bufAddr .ibuf k) :: copyOps (k + 1) n

/-- The host's actions for a statement (R116, R117). -/
def Stmt.expand (t : Stmt) : List HostOp :=
  match t with
  | .w32 a v => [.bus (writeReq32 a.value v)]
  | .r32 a => [.bus (readReq32 a.value)]
  | .w8 a b => [.bus (writeReq8 a.value b)]
  | .r8 a => [.bus (readReq8 a.value)]
  | .cmd i => [.bus (writeReq32 (regAddr .cmd) (encode i))]
  | .wait => [.wait]
  | .run i => [.bus (writeReq32 (regAddr .cmd) (encode i)), .wait]
  | .setLen n => [.bus (writeReq32 (regAddr .inLen) n)]
  | .load bs => loadOps 0 bs
  | .dump b k n => dumpOps b k n
  | .copy n => copyOps 0 n

/-- A host program: its statements' actions in order. -/
def assemble (p : List Stmt) : List HostOp := p.flatMap Stmt.expand

end Sys2Proof.Machine
end

