-- ==== Sys2Proof/Machine/Step.lean ====
section
/-! DEFINITION. One step of the whole: a host transaction, a clock edge (with or without a commit),
or a move of the reset line, in the order the schedule gives (R96). -/

namespace Sys2Proof.Machine

/-- The commit of the command in flight, one indivisible step (R293). -/
def runPending (s : State) : Host.Outcome State Fault Refusal :=
  match decode s.pendCmd with
  | some i => exec i s
  | none => .next (commitIllegal s)

/-- One step. -/
def step (s : State) : Host.Outcome State Fault Refusal :=
  match nextTurn s with
  | .host => .next (hostTurn (dropTurn s))
  | .clk commit =>
    if commits commit s then runPending (dropTurn s) else .next (noteEdge (dropTurn s))
  | .rstFall => .next (resetFall (dropTurn s))
  | .rstRise => resetRise (dropTurn s)

/-- The state whose very next step commits the command word of a table row: it has just been
accepted (R292), and the next turn is the engine's. -/
def State.withFetchWord (s : State) (nbits w : Nat) : State := fetchState (tableWord nbits w) s

end Sys2Proof.Machine
end

