-- ==== Sys2Proof/Safety.lean ====
section
/-! DEFINITION. What a good state of the block is: the invariants the rules of 10_state.md state
"while" a flag holds, and the kinds of request the claims speak of. -/

namespace Sys2Proof.Machine

/-- Every offset below `n` of a buffer has been written since reset. -/
def Memory.written (m : Memory) (n : Nat) : Prop := ∀ i, i < n → (Memory.lookup m i).isSome = true

/-- The invariant of the block. Each field names the rule it follows. -/
structure Inv (s : State) : Prop where
  /-- MAX_PAYLOAD is in its legal range (R8). -/
  capsLegal : Config.legalMaxPayload (maxPayload s) = true
  /-- IBUF is in canonical form and inside its size (R82). -/
  ibufWf : Memory.wf (bufferSize s .ibuf) s.ibuf = true
  /-- OBUF is in canonical form and inside its size (R82). -/
  obufWf : Memory.wf (bufferSize s .obuf) s.obuf = true
  /-- PBUF is in canonical form and inside its size (R82). -/
  pbufWf : Memory.wf (bufferSize s .pbuf) s.pbuf = true
  /-- While TYPE_VALID = 1, all four bytes of TYPE are alphabetic (R41). -/
  typeAlpha : s.typeValid = true → alphaCode s.typeReg = true
  /-- Until a type is constructed TYPE keeps its reset value (R41, R45). -/
  typeUnset : s.typeValid = false → s.typeReg = 0
  /-- While CH_VALID = 1, all four bytes of CH_TYPE are alphabetic (R43). -/
  chunkAlpha : s.chValid = true → alphaCode s.chType = true
  /-- While CH_VALID = 1, CH_LENGTH ≤ MAX_PAYLOAD (R46). -/
  chunkFits : s.chValid = true → s.chLength.toNat ≤ maxPayload s
  /-- While CH_VALID = 1, CH_CRC = crc32(PBUF[0..CH_LENGTH) ‖ bytesBE32(CH_TYPE)) (R46). -/
  chunkCrcHolds : s.chValid = true → s.chCrc = chunkCrc (chunkData s) s.chType
  /-- While CH_VALID = 1, the payload bytes have been written (R46, R291). -/
  chunkWritten : s.chValid = true → Memory.written s.pbuf s.chLength.toNat
  /-- Until a chunk is constructed CH_TYPE, CH_LENGTH and CH_CRC keep their reset values (R43, R46). -/
  chunkUnset : s.chValid = false → s.chType = 0 ∧ s.chLength = 0 ∧ s.chCrc = 0
  /-- OUT_LEN is 0 or the size of a frame that fits OBUF (R47). -/
  outLenFits : s.outLen = 0 ∨ (12 ≤ s.outLen.toNat ∧ s.outLen.toNat ≤ bufferSize s .obuf)
  /-- OBUF[0..OUT_LEN) has been written (R47, R82). -/
  outWritten : Memory.written s.obuf s.outLen.toNat
  /-- CONSUMED is 0 or the size of a frame that fits IBUF (R47). -/
  consumedFits : s.consumed = 0 ∨ (12 ≤ s.consumed.toNat ∧ s.consumed.toNat ≤ bufferSize s .ibuf)
  /-- While a command is in flight LAST_OP is its OP byte (R38, R292). -/
  lastOpOfPending : s.pendValid = true → s.lastOp = s.pendCmd.extractLsb' 0 8
  /-- DECODE_ERROR is never produced (R262). -/
  errProduced : s.err ≠ .decodeError
  /-- No command is in flight while rst_n is low (R290). -/
  resetQuiet : s.rst ≠ .high → s.pendValid = false

/-- The request `q` is what the host does next. -/
def State.nextRequest (s : State) (q : Request) : Prop := ∃ rest, s.host = .bus q :: rest

/-- A write to CMD that reaches the register: with BUSY = 0 it accepts a command (R33, R292). -/
def Request.writesCmd (q : Request) : Prop := q.kind = .write ∧ q.size = .four ∧ q.addr = 0x00

/-- A legal write to byte `i` of IBUF (R88, R89). -/
def Request.writesIbuf (q : Request) (s : State) (i : Nat) : Prop :=
  q.kind = .write ∧ q.size = .one ∧ windowOf q.addr = some .ibuf ∧ offsetOf q.addr = i ∧
    i < bufferSize s .ibuf

/-- A write that R295 drops while BUSY = 1: to CMD, CT_IN, IN_LEN or a byte of IBUF. -/
def Request.droppedWhileBusy (q : Request) (s : State) : Prop :=
  (q.kind = .write ∧ q.size = .four ∧ (q.addr = 0x00 ∨ q.addr = 0x10 ∨ q.addr = 0x14)) ∨
    ∃ i, q.writesIbuf s i

end Sys2Proof.Machine
end

