-- ==== Sys2Proof/Certificates/Slice0/Obligations.lean ====
section
/-! DEFINITION. The statements for the provers. Each docstring names the rule of spec/ it formalises;
a `derived` one says what it rests on. -/

open Sys2Proof Sys2Proof.Machine

namespace Sys2Proof.Claims

/-- The error commit of R266 as a record: three fields and nothing else. -/
def errorCommit (e : ResultCode) (info : Word) (s : State) : State :=
  { s with err := e, errInfo := info, pendValid := false }

/-- `i` is the least index of a non-alphabetic byte of the 4-byte code `cs` (R140). -/
def LeastBad (cs : List Byte) (i : Nat) : Prop :=
  i < 4 ∧ (∀ j, j < i → ∃ b, cs[j]? = some b ∧ isAlpha b = true) ∧
    ∃ b, cs[i]? = some b ∧ isAlpha b = false

/-- The number of leading alphabetic bytes: below 4 it is the least failing index of a code. -/
def leadingAlpha (c : List Byte) : Nat := (c.takeWhile isAlpha).length

/-- The checks of R267 for a command, in the order of its table, each with the code it raises and
the diagnostic value of R263. -/
def checksOf (i : Instr) (s : State) : List (Bool × ResultCode × Word) :=
  let n := s.inLen.toNat
  let bad (c : List Byte) : Bool × ResultCode × Word :=
    (decide (leadingAlpha c < 4), .notAlphabetic, BitVec.ofNat 32 (leadingAlpha c))
  match i with
  | .ctFromBytes => [bad (bytesBE32 s.ctIn)]
  | .ctFromText =>
    [(decide (n > bufferSize s .ibuf), .capacity, s.inLen), (decide (n < 4), .tooShort, s.inLen),
     bad (readBytes s .ibuf 0 4)]
  | .crcBuf => [(decide (n > bufferSize s .ibuf), .capacity, s.inLen)]
  | .chunkNew =>
    [(!s.typeValid, .typeUnset, 0), (decide (n > maxPayload s), .capacity, s.inLen)]
  | .chunkSerialize => [(!s.chValid, .noChunk, 0)]
  | .chunkParse =>
    let len := readWord s .ibuf 0
    let typ := readWord s .ibuf 4
    let crc := crc32 (readBytes s .ibuf 8 len.toNat ++ bytesBE32 typ)
    [(decide (n > bufferSize s .ibuf), .capacity, s.inLen), (decide (n < 12), .tooShort, s.inLen),
     bad (readBytes s .ibuf 4 4), (decide (n < 12 + len.toNat), .truncated, len),
     (decide (crc ≠ readWord s .ibuf (8 + len.toNat)), .checksumMismatch, crc)]

/-- The step from `s` to `t` is the successful commit of the command `i`. -/
def CommitsOk (i : Instr) (s t : State) : Prop :=
  nextTurn s = .clk true ∧ s.pendValid = true ∧ s.rst = .high ∧ decode s.pendCmd = some i ∧
    t.err = .ok

/-- The step from `s` brings the block out of reset. -/
def LeavesReset (s : State) : Prop := nextTurn s = .rstRise ∧ s.rst = .low true

/-- The schedule holds no move of the reset line. -/
def NoReset (s : State) : Prop := ∀ t ∈ s.turns, t ≠ Turn.rstFall ∧ t ≠ Turn.rstRise

/-- Bit `i` of a byte string, bit 0 of byte 0 first: the order in which R181 takes the bits. -/
def bitOf (s : List Byte) (i : Nat) : Bool := (s.getD (i / 8) 0).getLsbD (i % 8)

/-- One bit of input to the shift register, the bit-serial form of R181. -/
def crcFeed (r : Word) (b : Bool) : Word :=
  if r.getLsbD 0 != b then (r >>> 1) ^^^ 0xEDB88320 else r >>> 1

/-- The bits of a byte string in the order of R181. -/
def bitsOf (s : List Byte) : List Bool := (List.range (8 * s.length)).map (bitOf s)

/-- A frame in IBUF that CHUNK_PARSE accepts, by R213's conditions. -/
def Accepted (s : State) : Prop :=
  s.inLen.toNat ≤ bufferSize s .ibuf ∧
  12 + (readWord s .ibuf 0).toNat ≤ s.inLen.toNat ∧
  alphaCode (readWord s .ibuf 4) = true ∧
  crc32 (readBytes s .ibuf 8 (readWord s .ibuf 0).toNat ++ bytesBE32 (readWord s .ibuf 4)) =
    readWord s .ibuf (8 + (readWord s .ibuf 0).toNat)

/-- The host's actions in R222: new, serialize, copy the frame back, set its length, parse. -/
def roundTripActions (n : Nat) : List Stmt :=
  [.run .chunkNew, .run .chunkSerialize, .copy (12 + n), .setLen (BitVec.ofNat 32 (12 + n)),
   .run .chunkParse]

end Sys2Proof.Claims

open Sys2Proof.Claims

/-! ### Encoding -/

/-- R118: the six command words in full, as words and as the transaction of `CMD m`. -/
def Obligations.CommandWordsInFull : Prop :=
  encode .ctFromBytes = 0x00000001 ∧ encode .ctFromText = 0x00000002 ∧
  encode .crcBuf = 0x00000010 ∧ encode .chunkNew = 0x00000020 ∧
  encode .chunkSerialize = 0x00000021 ∧ encode .chunkParse = 0x00000022 ∧
  decode 0x00000001 = some .ctFromBytes ∧ decode 0x00000022 = some .chunkParse ∧
  Stmt.expand (.cmd .chunkParse) =
    [.bus { kind := .write, addr := 0, size := .four, wdata := 0x00000022 }]

/-- R110, R115's legality: a word is legal exactly if RSVD = 0 and OP is one of the six opcodes. -/
def Obligations.LegalIffReservedZeroAndOpcodeKnown : Prop :=
  ∀ w : Word, (decode w).isSome = true ↔
    w.extractLsb' 8 24 = 0 ∧
      (w.extractLsb' 0 8 = 0x01 ∨ w.extractLsb' 0 8 = 0x02 ∨ w.extractLsb' 0 8 = 0x10 ∨
       w.extractLsb' 0 8 = 0x20 ∨ w.extractLsb' 0 8 = 0x21 ∨ w.extractLsb' 0 8 = 0x22)

/-- Decode and encode agree over all 2^32 words: each command has exactly one word (derived from
R110, R111, R114). -/
def Obligations.DecodeAndEncodeAgree : Prop :=
  ∀ (w : Word) (i : Instr), decode w = some i ↔ w = encode i

/-- The step whose turn is the engine's runs the decoded command on the state with that turn taken
off the schedule (R293; the schedule is the model's, log entry 5). -/
def Obligations.StepRunsTheDecodedCommand : Prop :=
  ∀ (s : State) (i : Instr), nextTurn s = .clk true → s.pendValid = true → s.rst = .high →
    decode s.pendCmd = some i → step s = exec i { s with turns := s.turns.tail }

/-- R264: a word that decodes as ILLEGAL commits ILLEGAL_COMMAND(w) and nothing else. -/
def Obligations.IllegalWordCommitsOnlyItsError : Prop :=
  ∀ s : State, nextTurn s = .clk true → s.pendValid = true → s.rst = .high →
    decode s.pendCmd = none →
    step s = .next { s with err := .illegalCommand, errInfo := s.pendCmd, pendValid := false,
                            turns := s.turns.tail }

/-! ### The host bus and the registers -/

/-- Acceptance of a command word: the effect of R292 on the whole state (derived from R292; that the
OKAY response carries no rdata is the model's choice, log entry 8). -/
def Obligations.AcceptanceOfACommand : Prop :=
  ∀ (s : State) (w : Word), s.pendValid = false →
    busAccess { kind := .write, addr := 0, size := .four, wdata := w } s =
      ({ s with pendValid := true, pendCmd := w, ovr := false, lastOp := w.extractLsb' 0 8 },
       { resp := .okay, rdata := none })

/-- While BUSY = 1 a write to CMD, CT_IN, IN_LEN or an IBUF byte is dropped, gets OKAY and sets OVR; a
write to a read-only or reserved register is ignored and leaves OVR (derived from R295; that the OKAY
responses carry no rdata is the model's choice, log entry 8). -/
def Obligations.BusyWritesAreDropped : Prop :=
  ∀ (s : State) (q : Request), s.pendValid = true → q.kind = .write →
    (q.size = .four → (q.addr = 0x00 ∨ q.addr = 0x10 ∨ q.addr = 0x14) →
      busAccess q s = ({ s with ovr := true }, { resp := .okay, rdata := none })) ∧
    (q.size = .one → windowOf q.addr = some .ibuf → offsetOf q.addr < bufferSize s .ibuf →
      busAccess q s = ({ s with ovr := true }, { resp := .okay, rdata := none })) ∧
    (q.size = .four → windowOf q.addr = none → q.addr.extractLsb' 0 2 = 0 →
      q.addr ≠ 0x00 → q.addr ≠ 0x10 → q.addr ≠ 0x14 →
      busAccess q s = (s, { resp := .okay, rdata := none }))

/-- The fields of STATUS as it reads, its reset value, and that a host write is ignored (derived from
R34, with the ten numbers of R262 that its ERR field carries; that the OKAY response to the write
carries no rdata is the model's choice, log entry 8). -/
def Obligations.StatusLayout : Prop :=
  (∀ s : State,
    (statusWord s).getLsbD 0 = s.pendValid ∧ (statusWord s).getLsbD 1 = s.ovr ∧
    (statusWord s).extractLsb' 2 6 = 0 ∧ (statusWord s).extractLsb' 8 8 = s.err.code ∧
    (statusWord s).extractLsb' 16 8 = s.lastOp ∧ (statusWord s).extractLsb' 24 8 = 0 ∧
    busAccess { kind := .read, addr := 0x04, size := .four, wdata := 0 } s =
      (s, { resp := .okay, rdata := some (statusWord s) }) ∧
    ∀ w, busAccess { kind := .write, addr := 0x04, size := .four, wdata := w } s =
      (s, { resp := .okay, rdata := none })) ∧
  (∀ m d, statusWord (State.resetOf m d) = 0) ∧
  ResultCode.ok.code = 0x00 ∧ ResultCode.notAlphabetic.code = 0x01 ∧
  ResultCode.tooShort.code = 0x02 ∧ ResultCode.truncated.code = 0x03 ∧
  ResultCode.checksumMismatch.code = 0x04 ∧ ResultCode.decodeError.code = 0x05 ∧
  ResultCode.illegalCommand.code = 0x10 ∧ ResultCode.typeUnset.code = 0x11 ∧
  ResultCode.noChunk.code = 0x12 ∧ ResultCode.capacity.code = 0x13

/-- The read side of the register map of R31: what a legal read of each of the 15 offsets gives. -/
def Obligations.RegisterMapReads : Prop :=
  ∀ (s : State) (a v : Word),
    (a, v) ∈ [(0x00, 0), (0x04, statusWord s), (0x08, s.errInfo), (0x0C, s.caps), (0x10, s.ctIn),
      (0x14, s.inLen), (0x18, s.typeReg), (0x1C, props s.typeReg s.typeValid), (0x20, s.chType),
      (0x24, props s.chType s.chValid), (0x28, s.chLength), (0x2C, s.chCrc), (0x30, s.outLen),
      (0x34, s.consumed), (0x38, s.crcOut)] →
    busAccess { kind := .read, addr := a, size := .four, wdata := 0 } s =
      (s, { resp := .okay, rdata := some v })

/-- R86's refusals: in REG any size but 4 and any address with addr[1:0] ≠ 00 gets SLVERR with
rdata = 0 and changes nothing (with R80's rdata; derived, since the legal accesses are stated
elsewhere). -/
def Obligations.MisshapenRegisterAccess : Prop :=
  ∀ (s : State) (q : Request), windowOf q.addr = none →
    (q.size ≠ .four ∨ q.addr.extractLsb' 0 2 ≠ 0) →
    busAccess q s = (s, { resp := .slverr, rdata := some 0 })

/-- Reserved offsets, read-only registers and a read of CMD (derived from R87; that the OKAY responses
to the writes carry no rdata is the model's choice, log entry 8). -/
def Obligations.ReservedAndReadOnlyRegisters : Prop :=
  ∀ (s : State) (a w : Word), windowOf a = none → a.extractLsb' 0 2 = 0 →
    (0x3C ≤ offsetOf a →
      busAccess { kind := .read, addr := a, size := .four, wdata := w } s =
        (s, { resp := .okay, rdata := some 0 }) ∧
      busAccess { kind := .write, addr := a, size := .four, wdata := w } s =
        (s, { resp := .okay, rdata := none })) ∧
    (offsetOf a ∈ [0x04, 0x08, 0x0C, 0x18, 0x1C, 0x20, 0x24, 0x28, 0x2C, 0x30, 0x34, 0x38] →
      busAccess { kind := .write, addr := a, size := .four, wdata := w } s =
        (s, { resp := .okay, rdata := none })) ∧
    (offsetOf a = 0 →
      busAccess { kind := .read, addr := a, size := .four, wdata := w } s =
        (s, { resp := .okay, rdata := some 0 }))

/-- A write to CT_IN or IN_LEN while BUSY = 0 changes that register to the value, whatever the value,
and nothing else (derived from R39, R40 and R86; that the OKAY responses carry no rdata is the model's
choice, log entry 8). -/
def Obligations.OperandRegisterWrites : Prop :=
  ∀ (s : State) (w : Word), s.pendValid = false →
    busAccess { kind := .write, addr := 0x10, size := .four, wdata := w } s =
      ({ s with ctIn := w }, { resp := .okay, rdata := none }) ∧
    busAccess { kind := .write, addr := 0x14, size := .four, wdata := w } s =
      ({ s with inLen := w }, { resp := .okay, rdata := none })

/-- R88: in a buffer window any size but 1, or an offset at or beyond the buffer's size, gets SLVERR
with no effect; a size-1 read below the size gets OKAY. -/
def Obligations.BufferAccessShape : Prop :=
  ∀ (s : State) (b : Buffer) (q : Request), windowOf q.addr = some b →
    ((q.size ≠ .one ∨ bufferSize s b ≤ offsetOf q.addr) →
      busAccess q s = (s, { resp := .slverr, rdata := some 0 })) ∧
    (q.size = .one → offsetOf q.addr < bufferSize s b → q.kind = .read →
      busAccess q s =
        (s, { resp := .okay, rdata := some ((readByte s b (offsetOf q.addr)).zeroExtend 32) }))

/-- Buffer write rights, with the byte-level effect of an IBUF write: that byte becomes wdata[7:0] and
every other byte of every buffer reads as before (derived from R89; that the OKAY responses to the
writes carry no rdata is the model's choice, log entry 8). -/
def Obligations.BufferWriteRights : Prop :=
  ∀ (s : State) (q : Request),
    (q.kind = .write → q.size = .one → windowOf q.addr = some .ibuf →
      offsetOf q.addr < bufferSize s .ibuf → s.pendValid = false →
      ∃ m, busAccess q s = ({ s with ibuf := m }, { resp := .okay, rdata := none }) ∧
        ∀ b i, readByte { s with ibuf := m } b i =
          if b = .ibuf ∧ i = offsetOf q.addr then q.wdata.extractLsb' 0 8 else readByte s b i) ∧
    (q.kind = .write → q.size = .one → windowOf q.addr = some .ibuf →
      offsetOf q.addr < bufferSize s .ibuf → s.pendValid = true →
      busAccess q s = ({ s with ovr := true }, { resp := .okay, rdata := none })) ∧
    (q.kind = .write → (windowOf q.addr = some .obuf ∨ windowOf q.addr = some .pbuf) →
      busAccess q s = (s, { resp := .slverr, rdata := some 0 })) ∧
    (∀ b, q.kind = .read → q.size = .one → windowOf q.addr = some b →
      offsetOf q.addr < bufferSize s b →
      busAccess q s =
        (s, { resp := .okay, rdata := some ((readByte s b (offsetOf q.addr)).zeroExtend 32) }))

/-- R81: the four windows by addr[31:30], and every buffer byte at its base address plus its
offset. -/
def Obligations.AddressWindows : Prop :=
  ∀ a : Word,
    (windowOf a = none ↔ a.toNat < 0x40000000) ∧
    (windowOf a = some .ibuf ↔ 0x40000000 ≤ a.toNat ∧ a.toNat < 0x80000000) ∧
    (windowOf a = some .obuf ↔ 0x80000000 ≤ a.toNat ∧ a.toNat < 0xC0000000) ∧
    (windowOf a = some .pbuf ↔ 0xC0000000 ≤ a.toNat) ∧
    offsetOf a = a.toNat % 2 ^ 30

/-- A read transaction changes nothing and gives the same response each time (derived from R93's
"No read has a side effect. Every read is idempotent."). -/
def Obligations.ReadsHaveNoSideEffect : Prop :=
  ∀ (s : State) (q : Request), q.kind = .read →
    (busAccess q s).1 = s ∧ (busAccess q (busAccess q s).1).2 = (busAccess q s).2 ∧
    transact q s = { s with responses := s.responses ++ [(busAccess q s).2] }

/-- A transaction answered SLVERR returns rdata = 0 and changes no state, and no transaction changes
STATUS.ERR or ERR_INFO (derived from R80 and R268). -/
def Obligations.BusErrorsChangeNothing : Prop :=
  ∀ (s : State) (q : Request),
    ((busAccess q s).2.resp = .slverr → busAccess q s = (s, { resp := .slverr, rdata := some 0 })) ∧
    (busAccess q s).1.err = s.err ∧ (busAccess q s).1.errInfo = s.errInfo

/-- The pseudo-instruction WAIT on the host's turn: one read of STATUS, and the host goes on only if
it gave bit 0 = 0 (derived from R117). -/
def Obligations.WaitPollsStatusUntilIdle : Prop :=
  ∀ (s : State) (rest : List HostOp), nextTurn s = .host → s.rst = .high →
    s.host = Stmt.wait.expand ++ rest →
    step s = .next { s with
      host := if s.pendValid then Stmt.wait.expand ++ rest else rest
      responses := s.responses ++ [{ resp := .okay, rdata := some (statusWord s) }]
      turns := s.turns.tail }

/-- The host's turn: with rst_n high it performs exactly the request at the head of the host's list,
gives its response and takes it off; a COPY element reads its source byte and leaves the write of that
byte to do (after an SLVERR read it carries 0, log entry 11); with nothing to do, or with rst_n low,
only the turn passes. And the notation: the actions of each statement (derived from R96, R116, R117;
that the turns come from a list is log entry 5; that a sum B+k beyond 32 bits is taken modulo 2^32 is
the model's choice, log entry 14). -/
def Obligations.HostActsAsItsStatementsSay : Prop :=
  (∀ s : State, nextTurn s = .host →
    (∀ q rest, s.rst = .high → s.host = .bus q :: rest →
      step s = .next { (busAccess q s).1 with
        host := rest, responses := s.responses ++ [(busAccess q s).2], turns := s.turns.tail }) ∧
    (∀ src dst rest, s.rst = .high → s.host = .copyByte src dst :: rest →
      let r := (busAccess { kind := .read, addr := src, size := .one, wdata := 0 } s).2
      step s = .next { s with
        host := .bus { kind := .write, addr := dst, size := .one,
                       wdata := ((r.rdata.getD 0).extractLsb' 0 8).zeroExtend 32 } :: rest
        responses := s.responses ++ [r], turns := s.turns.tail }) ∧
    ((s.rst ≠ .high ∨ s.host = []) → step s = .next { s with turns := s.turns.tail })) ∧
  (∀ a v, (Stmt.w32 a v).expand =
    [.bus { kind := .write, addr := a.value, size := .four, wdata := v }]) ∧
  (∀ a, (Stmt.r32 a).expand =
    [.bus { kind := .read, addr := a.value, size := .four, wdata := 0 }]) ∧
  (∀ a b, (Stmt.w8 a b).expand =
    [.bus { kind := .write, addr := a.value, size := .one, wdata := b.zeroExtend 32 }]) ∧
  (∀ a, (Stmt.r8 a).expand =
    [.bus { kind := .read, addr := a.value, size := .one, wdata := 0 }]) ∧
  (∀ i, (Stmt.cmd i).expand =
      [.bus { kind := .write, addr := 0x00, size := .four, wdata := encode i }] ∧
    (Stmt.run i).expand = (Stmt.cmd i).expand ++ Stmt.wait.expand) ∧
  (∀ n, (Stmt.setLen n).expand =
    [.bus { kind := .write, addr := 0x14, size := .four, wdata := n }]) ∧
  (∀ bs, (Stmt.load bs).expand = bs.zipIdx.map fun p =>
    .bus { kind := .write, addr := 0x40000000 + BitVec.ofNat 32 p.2, size := .one
           wdata := p.1.zeroExtend 32 }) ∧
  (∀ b k n, (Stmt.dump b k n).expand = (List.range n).map fun i =>
    .bus { kind := .read, addr := (AddrOperand.buf b (k + i)).value, size := .one, wdata := 0 }) ∧
  (∀ n, (Stmt.copy n).expand = (List.range n).map fun i =>
    .copyByte (0x80000000 + BitVec.ofNat 32 i) (0x40000000 + BitVec.ofNat 32 i)) ∧
  (∀ (r : Reg) (a : Word),
    (r, a) ∈ [(.cmd, 0x00), (.status, 0x04), (.errInfo, 0x08), (.caps, 0x0C), (.ctIn, 0x10),
      (.inLen, 0x14), (.type, 0x18), (.props, 0x1C), (.chType, 0x20), (.chProps, 0x24),
      (.chLength, 0x28), (.chCrc, 0x2C), (.outLen, 0x30), (.consumed, 0x34), (.crcOut, 0x38)] →
    (AddrOperand.reg r).value = a) ∧
  (∀ k, (AddrOperand.buf .ibuf k).value = 0x40000000 + BitVec.ofNat 32 k ∧
    (AddrOperand.buf .obuf k).value = 0x80000000 + BitVec.ofNat 32 k ∧
    (AddrOperand.buf .pbuf k).value = 0xC0000000 + BitVec.ofNat 32 k) ∧
  (∀ a, (AddrOperand.num a).value = a) ∧
  ∀ p : List Stmt, assemble p = (p.map Stmt.expand).flatten

/-- The 4-byte field at offset k of a buffer holds v big-endian, v[31:24] at the lowest offset, that is
BUF[k..k+4) = bytesBE32(v); with what BUF[k..k+n) is, byte by byte (derived from R13, R14 and R90). -/
def Obligations.BufferFieldsAreBigEndian : Prop :=
  (∀ (s : State) (b : Buffer) (k : Nat) (v : Word),
    (readWord s b k = v ↔
      readByte s b k = v.extractLsb' 24 8 ∧ readByte s b (k + 1) = v.extractLsb' 16 8 ∧
      readByte s b (k + 2) = v.extractLsb' 8 8 ∧ readByte s b (k + 3) = v.extractLsb' 0 8) ∧
    (readWord s b k = v ↔ readBytes s b k 4 = bytesBE32 v)) ∧
  ∀ (s : State) (b : Buffer) (k n : Nat), (readBytes s b k n).length = n ∧
    ∀ i, i < n → (readBytes s b k n)[i]? = some (readByte s b (k + i))

/-- R50: CAPS reads MAX_PAYLOAD, from which the three buffer sizes follow, and no step changes it. -/
def Obligations.CapsIsTheConstantMaxPayload : Prop :=
  ∀ s : State,
    busAccess { kind := .read, addr := 0x0C, size := .four, wdata := 0 } s =
      (s, { resp := .okay, rdata := some (BitVec.ofNat 32 (maxPayload s)) }) ∧
    bufferSize s .ibuf = s.caps.toNat + 12 ∧ bufferSize s .obuf = s.caps.toNat + 12 ∧
    bufferSize s .pbuf = s.caps.toNat ∧
    ∀ t, step s = .next t → t.caps = s.caps

/-! ### Chunk types and properties -/

/-- R150: the extractor bit by bit, and that PROPS and CH_PROPS are it at every instant. -/
def Obligations.PropertyExtractor : Prop :=
  (∀ t : Word, props t false = 0) ∧
  (∀ t : Word,
    (props t true).getLsbD 0 = !t.getLsbD 29 ∧ (props t true).getLsbD 1 = !t.getLsbD 21 ∧
    (props t true).getLsbD 2 = !t.getLsbD 13 ∧ (props t true).getLsbD 3 = t.getLsbD 5 ∧
    (props t true).getLsbD 4 = !t.getLsbD 13 ∧ (props t true).getLsbD 8 = true ∧
    ∀ k, (5 ≤ k ∧ k ≤ 7 ∨ 9 ≤ k) → (props t true).getLsbD k = false) ∧
  ∀ s : State,
    readReg s .props = props s.typeReg s.typeValid ∧
    readReg s .chProps = props s.chType s.chValid

/-- R151 to R155: the five properties by the case bit 0x20 of the code's bytes; for an alphabetic
byte the bit is 0 exactly for uppercase; VALID is RSV. And R16: which bytes are alphabetic. -/
def Obligations.PropertiesAreCaseBits : Prop :=
  (∀ b0 b1 b2 b3 : Byte,
    let p := props (be32 b0 b1 b2 b3) true
    (p.getLsbD 0 = true ↔ b0 &&& 0x20 = 0) ∧ (p.getLsbD 1 = true ↔ b1 &&& 0x20 = 0) ∧
    (p.getLsbD 2 = true ↔ b2 &&& 0x20 = 0) ∧ (p.getLsbD 3 = true ↔ b3 &&& 0x20 ≠ 0) ∧
    p.getLsbD 4 = p.getLsbD 2) ∧
  (∀ b : Byte, isAlpha b = true →
    (b &&& 0x20 = 0 ↔ 0x41 ≤ b.toNat ∧ b.toNat ≤ 0x5A)) ∧
  ∀ b : Byte, isAlpha b = true ↔
    (0x41 ≤ b.toNat ∧ b.toNat ≤ 0x5A) ∨ (0x61 ≤ b.toNat ∧ b.toNat ≤ 0x7A)

/-- R156: only bits 29, 21, 13 and 5 of the code and the validity flag matter. -/
def Obligations.PropertiesReadOnlyTheCaseBits : Prop :=
  ∀ (t u : Word) (v : Bool),
    t.getLsbD 29 = u.getLsbD 29 → t.getLsbD 21 = u.getLsbD 21 → t.getLsbD 13 = u.getLsbD 13 →
    t.getLsbD 5 = u.getLsbD 5 → props t v = props u v

/-- R141 (with R140's least failing index): CT_FROM_BYTES. -/
def Obligations.CtFromBytesResult : Prop :=
  encode .ctFromBytes = 0x00000001 ∧
  ∀ s : State,
    (alphaCode s.ctIn = true →
      ∃ t, exec .ctFromBytes s = .next t ∧
        t = { s with typeReg := s.ctIn, typeValid := true, err := .ok, errInfo := 0,
                     pendValid := false } ∧
        propsWord t = props s.ctIn true) ∧
    (∀ i, LeastBad (bytesBE32 s.ctIn) i →
      exec .ctFromBytes s = .next (errorCommit .notAlphabetic (BitVec.ofNat 32 i) s)) ∧
    (alphaCode s.ctIn = false → ∃ i, LeastBad (bytesBE32 s.ctIn) i)

/-- R142: CT_FROM_TEXT, its checks in order and its effect. -/
def Obligations.CtFromTextResult : Prop :=
  encode .ctFromText = 0x00000002 ∧
  ∀ s : State,
    let c := be32 (readByte s .ibuf 0) (readByte s .ibuf 1) (readByte s .ibuf 2) (readByte s .ibuf 3)
    (bufferSize s .ibuf < s.inLen.toNat →
      exec .ctFromText s = .next (errorCommit .capacity s.inLen s)) ∧
    (s.inLen.toNat < 4 →
      exec .ctFromText s = .next (errorCommit .tooShort s.inLen s)) ∧
    (4 ≤ s.inLen.toNat → s.inLen.toNat ≤ bufferSize s .ibuf →
      (alphaCode c = true →
        ∃ t, exec .ctFromText s = .next t ∧
          t = { s with typeReg := c, typeValid := true, err := .ok, errInfo := 0,
                       pendValid := false } ∧
          propsWord t = props c true) ∧
      (∀ i, LeastBad (readBytes s .ibuf 0 4) i →
        exec .ctFromText s = .next (errorCommit .notAlphabetic (BitVec.ofNat 32 i) s)))

/-! ### The CRC unit -/

/-- R185: CRC_BUF. -/
def Obligations.CrcBufResult : Prop :=
  encode .crcBuf = 0x00000010 ∧
  ∀ s : State,
    (bufferSize s .ibuf < s.inLen.toNat →
      exec .crcBuf s = .next (errorCommit .capacity s.inLen s)) ∧
    (s.inLen.toNat ≤ bufferSize s .ibuf →
      exec .crcBuf s =
        .next { s with crcOut := crc32 (readBytes s .ibuf 0 s.inLen.toNat), err := .ok,
                       errInfo := 0, pendValid := false }) ∧
    (s.inLen = 0 → ∃ t, exec .crcBuf s = .next t ∧ t.crcOut = 0)

/-- The check value of R180's parameter set, the value of the empty string, and R182's start: one
byte's eight steps as traced in V-CRC-3 (derived; R180 and R181). -/
def Obligations.CrcCheckValues : Prop :=
  crc32 [0x31, 0x32, 0x33, 0x34, 0x35, 0x36, 0x37, 0x38, 0x39] = 0xCBF43926 ∧
  crc32 [0x61] = 0xE8B7BE43 ∧ crcByte 0xFFFFFFFF 0x61 = 0x174841BC ∧ crc32 [] = 0

/-- The byte-parallel function is the bit-serial one: the shift register fed one bit at a time, bit 0
of each byte first (derived from R181 and R182). -/
def Obligations.CrcIsBitSerial : Prop :=
  ∀ s : List Byte, crc32 s = (bitsOf s).foldl crcFeed 0xFFFFFFFF ^^^ 0xFFFFFFFF

/-- The residue of R180: a string followed by its own CRC, least significant byte first, leaves the
constant 0xDEBB20E3 in the register, for every string (derived from R180 and V-CRC-17). -/
def Obligations.CrcResidue : Prop :=
  ∀ s : List Byte,
    crc32 (s ++ [(crc32 s).extractLsb' 0 8, (crc32 s).extractLsb' 8 8, (crc32 s).extractLsb' 16 8,
      (crc32 s).extractLsb' 24 8]) = 0xDEBB20E3 ^^^ 0xFFFFFFFF

/-- The empty string's value, and that two strings of equal length that differ, and differ only within
32 consecutive bits, have different CRCs (derived from R183; that consecutive bits are counted in the
order of R181, bit 0 of each byte first, is the model's inference, log entry 12). -/
def Obligations.CrcDetectsEveryShortBurst : Prop :=
  crc32 [] = 0 ∧
  ∀ (s t : List Byte) (k : Nat), s.length = t.length → s ≠ t →
    (∀ i, bitOf s i ≠ bitOf t i → k ≤ i ∧ i < k + 32) → crc32 s ≠ crc32 t

/-- R184: payload first, then the four type bytes; the orders coincide for an empty payload and
differ for V-CRC-12 against V-CRC-13. -/
def Obligations.ChunkCrcOrder : Prop :=
  (∀ (p : List Byte) (t : Word),
    chunkCrc p t =
      crc32 (p ++ [t.extractLsb' 24 8, t.extractLsb' 16 8, t.extractLsb' 8 8, t.extractLsb' 0 8])) ∧
  (∀ t : Word, chunkCrc [] t = crc32 (bytesBE32 t ++ [])) ∧
  chunkCrc [0x48, 0x69] 0x52755374 = 0x332BEABE ∧
  crc32 (bytesBE32 0x52755374 ++ [0x48, 0x69]) = 0x47381BD1

/-! ### Chunks -/

/-- R211: CHUNK_NEW, its checks in order and its effect down to the bytes of PBUF. -/
def Obligations.ChunkNewResult : Prop :=
  encode .chunkNew = 0x00000020 ∧
  ∀ s : State,
    (s.typeValid = false → exec .chunkNew s = .next (errorCommit .typeUnset 0 s)) ∧
    (s.typeValid = true → maxPayload s < s.inLen.toNat →
      exec .chunkNew s = .next (errorCommit .capacity s.inLen s)) ∧
    (s.typeValid = true → s.inLen.toNat ≤ maxPayload s →
      ∃ m, exec .chunkNew s =
          .next { s with chType := s.typeReg, chLength := s.inLen,
                         chCrc := crc32 (readBytes s .ibuf 0 s.inLen.toNat ++ bytesBE32 s.typeReg),
                         pbuf := m, chValid := true, err := .ok, errInfo := 0,
                         pendValid := false } ∧
        ∀ i, readByte { s with pbuf := m } .pbuf i =
          if i < s.inLen.toNat then readByte s .ibuf i else readByte s .pbuf i)

/-- R212 (with R210's frame): CHUNK_SERIALIZE, down to the bytes of OBUF. -/
def Obligations.ChunkSerializeResult : Prop :=
  encode .chunkSerialize = 0x00000021 ∧
  ∀ s : State,
    (s.chValid = false → exec .chunkSerialize s = .next (errorCommit .noChunk 0 s)) ∧
    (s.chValid = true →
      ∃ m, exec .chunkSerialize s =
          .next { s with obuf := m, outLen := BitVec.ofNat 32 (12 + s.chLength.toNat), err := .ok,
                         errInfo := 0, pendValid := false } ∧
        readBytes { s with obuf := m } .obuf 0 (12 + s.chLength.toNat) =
          bytesBE32 s.chLength ++ bytesBE32 s.chType ++ readBytes s .pbuf 0 s.chLength.toNat ++
            bytesBE32 s.chCrc ∧
        ∀ i, 12 + s.chLength.toNat ≤ i →
          readByte { s with obuf := m } .obuf i = readByte s .obuf i)

/-- R214: fewer than 12 bytes is TOO_SHORT, whatever the bytes are. -/
def Obligations.ParseTooShort : Prop :=
  ∀ s : State, s.inLen.toNat < 12 →
    exec .chunkParse s = .next (errorCommit .tooShort s.inLen s)

/-- R215: a bad type is reported with its index in the code, before the length is compared with the
buffer. -/
def Obligations.ParseBadType : Prop :=
  ∀ (s : State) (i : Nat), 12 ≤ s.inLen.toNat → s.inLen.toNat ≤ bufferSize s .ibuf →
    LeastBad (readBytes s .ibuf 4 4) i →
    exec .chunkParse s = .next (errorCommit .notAlphabetic (BitVec.ofNat 32 i) s)

/-- R216: TRUNCATED(L) when the payload, or the CRC field after it, does not fit; the two conditions
together are IN_LEN < 12 + L. -/
def Obligations.ParseTruncated : Prop :=
  ∀ s : State, 12 ≤ s.inLen.toNat → s.inLen.toNat ≤ bufferSize s .ibuf →
    alphaCode (readWord s .ibuf 4) = true →
    let n := s.inLen.toNat
    let len := readWord s .ibuf 0
    ((n - 8 < len.toNat ∨ n - 12 < len.toNat) ↔ n < 12 + len.toNat) ∧
    (n < 12 + len.toNat → exec .chunkParse s = .next (errorCommit .truncated len s))

/-- R217: the checksum gate. With every earlier check passed, a declared CRC that differs from the
recomputed one raises CHECKSUM_MISMATCH with the recomputed value, and no chunk is produced. -/
def Obligations.ParseChecksumGate : Prop :=
  ∀ s : State, s.inLen.toNat ≤ bufferSize s .ibuf → alphaCode (readWord s .ibuf 4) = true →
    12 + (readWord s .ibuf 0).toNat ≤ s.inLen.toNat →
    let c := crc32 (readBytes s .ibuf 8 (readWord s .ibuf 0).toNat ++
      bytesBE32 (readWord s .ibuf 4))
    c ≠ readWord s .ibuf (8 + (readWord s .ibuf 0).toNat) →
    exec .chunkParse s = .next (errorCommit .checksumMismatch c s)

/-- R213's success with R218 (trailing bytes do not matter) and R219 (the declared CRC is stored, and
equals the recomputed one): CHUNK_PARSE of an accepted frame, down to the bytes of PBUF; and the
CAPACITY check that precedes everything. -/
def Obligations.ParseResult : Prop :=
  encode .chunkParse = 0x00000022 ∧
  ∀ s : State,
    (bufferSize s .ibuf < s.inLen.toNat →
      exec .chunkParse s = .next (errorCommit .capacity s.inLen s)) ∧
    (Accepted s →
      let len := readWord s .ibuf 0
      ∃ m, exec .chunkParse s =
          .next { s with chType := readWord s .ibuf 4, chLength := len,
                         chCrc := readWord s .ibuf (8 + len.toNat), pbuf := m, chValid := true,
                         consumed := BitVec.ofNat 32 (12 + len.toNat), err := .ok, errInfo := 0,
                         pendValid := false } ∧
        (∀ i, readByte { s with pbuf := m } .pbuf i =
          if i < len.toNat then readByte s .ibuf (8 + i) else readByte s .pbuf i) ∧
        readWord s .ibuf (8 + len.toNat) =
          crc32 (readBytes s .ibuf 8 len.toNat ++ bytesBE32 (readWord s .ibuf 4)))

/-- R222: a chunk constructed, serialized and copied back into IBUF parses to the same chunk; and a
frame whose CRC is in the standard PNG order, type before payload, is refused where the two orders
give different CRCs. -/
def Obligations.NewSerializeParseRoundTrip : Prop :=
  (∀ s s1 s2 s3 : State, Inv s → exec .chunkNew s = .next s1 → s1.err = .ok →
    exec .chunkSerialize s1 = .next s2 →
    s3.caps = s2.caps → s3.inLen = s2.outLen →
    (∀ i, i < s2.outLen.toNat → readByte s3 .ibuf i = readByte s2 .obuf i) →
    s2.err = .ok ∧
    ∃ s4, exec .chunkParse s3 = .next s4 ∧ s4.err = .ok ∧ s4.chValid = true ∧
      s4.chType = s1.chType ∧ s4.chLength = s1.chLength ∧ s4.chCrc = s1.chCrc ∧
      (∀ i, i < s1.chLength.toNat → readByte s4 .pbuf i = readByte s1 .pbuf i) ∧
      s4.consumed = s2.outLen) ∧
  ∀ s : State, s.inLen.toNat ≤ bufferSize s .ibuf → alphaCode (readWord s .ibuf 4) = true →
    12 + (readWord s .ibuf 0).toNat ≤ s.inLen.toNat →
    let p := readBytes s .ibuf 8 (readWord s .ibuf 0).toNat
    let c := bytesBE32 (readWord s .ibuf 4)
    readWord s .ibuf (8 + (readWord s .ibuf 0).toNat) = crc32 (c ++ p) →
    crc32 (p ++ c) ≠ crc32 (c ++ p) →
    exec .chunkParse s = .next (errorCommit .checksumMismatch (crc32 (p ++ c)) s)

/-- The round trip of R222 carried out by the host's transactions over the bus, step by step, on the
schedule that serves the engine first: from an idle good state with a type and a payload it ends with
the host done and the same chunk (derived; R222, R117, and the schedule of log entry 5). -/
def Obligations.RoundTripOverTheBus : Prop :=
  ∀ s : State, Inv s → s.rst = .high → s.pendValid = false → s.turns = [] →
    s.typeValid = true → s.inLen.toNat ≤ maxPayload s →
    s.host = assemble (roundTripActions s.inLen.toNat) →
    ∃ k t, Host.Core.run Sys2Proof.core k s = .next t ∧
      t.host = [] ∧ t.pendValid = false ∧ t.err = .ok ∧ t.lastOp = 0x22 ∧ t.chValid = true ∧
      t.chType = s.typeReg ∧ t.chLength = s.inLen ∧
      t.chCrc = crc32 (readBytes s .ibuf 0 s.inLen.toNat ++ bytesBE32 s.typeReg) ∧
      (∀ i, i < s.inLen.toNat → readByte t .pbuf i = readByte s .ibuf i) ∧
      t.consumed = t.outLen ∧ t.outLen.toNat = 12 + s.inLen.toNat

/-- R223: a frame that CHUNK_PARSE accepts, with exactly one byte changed in its type, payload or CRC
field and the type still alphabetic, raises CHECKSUM_MISMATCH. -/
def Obligations.TamperedFrameIsRejected : Prop :=
  ∀ (s s' : State) (j : Nat), Accepted s → s'.caps = s.caps → s'.inLen = s.inLen →
    4 ≤ j → j < 12 + (readWord s .ibuf 0).toNat →
    readByte s' .ibuf j ≠ readByte s .ibuf j →
    (∀ i, i ≠ j → readByte s' .ibuf i = readByte s .ibuf i) →
    alphaCode (readWord s' .ibuf 4) = true →
    ∃ c, exec .chunkParse s' = .next (errorCommit .checksumMismatch c s') ∧
      (8 + (readWord s .ibuf 0).toNat ≤ j → c = readWord s .ibuf (8 + (readWord s .ibuf 0).toNat))

/-! ### Errors, commits and the whole block -/

/-- R261, R263, R266, R267: a commit reports the first failing check of the command's table, with its
diagnostic value, and writes three fields only; with no failing check it succeeds. -/
def Obligations.FirstFailingCheckIsReported : Prop :=
  ∀ s : State,
    match decode s.pendCmd with
    | none => runPending s = .next (errorCommit .illegalCommand s.pendCmd s)
    | some i =>
      match (checksOf i s).find? (fun c => c.1) with
      | some (_, e, info) => runPending s = .next (errorCommit e info s)
      | none => ∃ t, runPending s = .next t ∧ t.err = .ok ∧ t.errInfo = 0 ∧ t.pendValid = false

/-- The frame of the six commands: what none of them writes, and, apart from STATUS.ERR, ERR_INFO and
BUSY, the outputs that only the named commands write (derived from R83, R112 and R266). -/
def Obligations.CommandsWriteOnlyTheirOutputs : Prop :=
  ∀ (i : Instr) (s t : State), exec i s = .next t →
    t.ovr = s.ovr ∧ t.lastOp = s.lastOp ∧ t.pendCmd = s.pendCmd ∧ t.caps = s.caps ∧
    t.ctIn = s.ctIn ∧ t.inLen = s.inLen ∧ t.ibuf = s.ibuf ∧ t.rst = s.rst ∧ t.draws = s.draws ∧
    t.host = s.host ∧ t.turns = s.turns ∧ t.responses = s.responses ∧
    (i ≠ .ctFromBytes → i ≠ .ctFromText → t.typeReg = s.typeReg ∧ t.typeValid = s.typeValid) ∧
    (i ≠ .chunkNew → i ≠ .chunkParse →
      t.chType = s.chType ∧ t.chValid = s.chValid ∧ t.chLength = s.chLength ∧
      t.chCrc = s.chCrc ∧ t.pbuf = s.pbuf) ∧
    (i ≠ .chunkSerialize → t.outLen = s.outLen ∧ t.obuf = s.obuf) ∧
    (i ≠ .chunkParse → t.consumed = s.consumed) ∧ (i ≠ .crcBuf → t.crcOut = s.crcOut)

/-- Every command completes on every state: it answers a next state with BUSY = 0, and the only stop
of the whole machine is a reset pulse that saw no clock edge (derived from R260 and R266; the stop
is the model's, log entry 7). -/
def Obligations.EveryCommandCompletes : Prop :=
  (∀ (i : Instr) (s : State), ∃ t, exec i s = .next t ∧ t.pendValid = false) ∧
  ∀ s : State, (∃ t, step s = .next t) ∨
    (nextTurn s = .rstRise ∧ s.rst = .low false ∧ step s = .fault .resetPulseTooShort)

/-- BUSY is set only by an acceptance, a size-4 write to CMD that the host performs on its turn, which
also sets pend_cmd, LAST_OP and OVR, and is cleared only by a commit or by a falling rst_n (derived
from R33, R35, R38, R290 and R292; the turn and the host's list are the model's, log entries 5 and
9). -/
def Obligations.BusyFollowsTheCommand : Prop :=
  ∀ s t : State, step s = .next t →
    (s.pendValid = false → t.pendValid = true →
      nextTurn s = .host ∧ s.rst = .high ∧
      ∃ q : Request, s.nextRequest q ∧ q.writesCmd ∧ t.pendCmd = q.wdata ∧
        t.lastOp = q.wdata.extractLsb' 0 8 ∧ t.ovr = false) ∧
    (s.pendValid = true → t.pendValid = false →
      (nextTurn s = .clk true ∧ s.rst = .high) ∨ (nextTurn s = .rstFall ∧ s.rst = .high) ∨
      LeavesReset s) ∧
    (t.lastOp ≠ s.lastOp → (s.pendValid = false ∧ t.pendValid = true) ∨ LeavesReset s)

/-- STATUS.ERR and ERR_INFO change only at a commit or out of reset; a commit that leaves ERR = OK
leaves ERR_INFO = 0 (derived from R37, R48 and R263). -/
def Obligations.ResultCodeChangesOnlyAtACommit : Prop :=
  ∀ s t : State, step s = .next t → ¬ LeavesReset s →
    ((t.err ≠ s.err ∨ t.errInfo ≠ s.errInfo) →
      nextTurn s = .clk true ∧ s.pendValid = true ∧ s.rst = .high) ∧
    (nextTurn s = .clk true → s.pendValid = true → s.rst = .high → t.err = .ok → t.errInfo = 0)

/-- R294: between acceptance and commit every host-visible register but STATUS and every buffer byte
holds its value, and so do ERR and LAST_OP. -/
def Obligations.PreCommandStateUntilCommit : Prop :=
  ∀ s t : State, s.pendValid = true → s.rst = .high → step s = .next t → t.pendValid = true →
    t.err = s.err ∧ t.lastOp = s.lastOp ∧ t.pendCmd = s.pendCmd ∧
    (∀ r, r ≠ Reg.status → readReg t r = readReg s r) ∧
    ∀ b i, readByte t b i = readByte s b i

/-- With rst_n left high, an accepted command reaches its commit, after any number of turns that the
schedule holds, with CT_IN, IN_LEN and IBUF as they were at acceptance; that the other registers and
buffers are so too is `PreCommandStateUntilCommit` (derived from R10, R49 and R298; the form of the
fairness at the schedule's end is the model's choice, log entry 5). -/
def Obligations.EveryAcceptedCommandCommits : Prop :=
  ∀ s : State, s.pendValid = true → s.rst = .high → NoReset s →
    ∃ k u v, k ≤ s.turns.length ∧ Host.Core.run Sys2Proof.core k s = .next u ∧
      nextTurn u = .clk true ∧ u.pendValid = true ∧ u.rst = .high ∧ u.pendCmd = s.pendCmd ∧
      u.ctIn = s.ctIn ∧ u.inLen = s.inLen ∧ u.ibuf = s.ibuf ∧
      step u = .next v ∧ v.pendValid = false

/-- A host write that races with a commit has both outcomes: with CRC_BUF in flight, a host write of 4 to IN_LEN lands
after the commit or is dropped before it, and CRC_OUT is the same (derived from R295, R298 and
95_test_vectors.md section 3). -/
def Obligations.WriteRaceHasBothOutcomes : Prop :=
  ∀ s : State, s.pendValid = true → s.pendCmd = 0x00000010 → s.rst = .high →
    s.inLen.toNat ≤ bufferSize s .ibuf →
    s.host = assemble [.w32 (.reg .inLen) 4] →
    let c := crc32 (readBytes s .ibuf 0 s.inLen.toNat)
    (∃ t, Host.Core.run Sys2Proof.core 2 { s with turns := [.clk true, .host] } = .next t ∧
      t.inLen = 4 ∧ t.ovr = s.ovr ∧ t.crcOut = c ∧ t.pendValid = false ∧ t.err = .ok) ∧
    (∃ t, Host.Core.run Sys2Proof.core 2 { s with turns := [.host, .clk true] } = .next t ∧
      t.inLen = s.inLen ∧ t.ovr = true ∧ t.crcOut = c ∧ t.pendValid = false ∧ t.err = .ok)

/-- R45: TYPE_VALID is set by a successful CT_FROM_BYTES or CT_FROM_TEXT commit and CH_VALID by a
successful CHUNK_NEW or CHUNK_PARSE commit, by nothing else, and only reset clears them; the host
sees them as PROPS.TV and CH_PROPS.CV. -/
def Obligations.ValidityFlagsSetOnceAndKept : Prop :=
  (∀ s t : State, step s = .next t → ¬ LeavesReset s →
    (t.typeValid = true ↔
      s.typeValid = true ∨ CommitsOk .ctFromBytes s t ∨ CommitsOk .ctFromText s t) ∧
    (t.chValid = true ↔
      s.chValid = true ∨ CommitsOk .chunkNew s t ∨ CommitsOk .chunkParse s t)) ∧
  (∀ s t : State, step s = .next t → LeavesReset s → t.typeValid = false ∧ t.chValid = false) ∧
  ∀ s : State, (readReg s .props).getLsbD 8 = s.typeValid ∧
    (readReg s .chProps).getLsbD 8 = s.chValid

/-- Each result register changes only at a successful commit of a command that the map of R31 names
as its writer, or out of reset (derived from R31, R41, R43, R46, R47). -/
def Obligations.ResultRegistersHaveTheirWriters : Prop :=
  ∀ s t : State, step s = .next t → ¬ LeavesReset s →
    (t.typeReg ≠ s.typeReg → CommitsOk .ctFromBytes s t ∨ CommitsOk .ctFromText s t) ∧
    ((t.chType ≠ s.chType ∨ t.chLength ≠ s.chLength ∨ t.chCrc ≠ s.chCrc) →
      CommitsOk .chunkNew s t ∨ CommitsOk .chunkParse s t) ∧
    (t.outLen ≠ s.outLen → CommitsOk .chunkSerialize s t) ∧
    (t.consumed ≠ s.consumed → CommitsOk .chunkParse s t) ∧
    (t.crcOut ≠ s.crcOut → CommitsOk .crcBuf s t)

/-- A buffer byte keeps its value until its writer overwrites it: IBUF the host's write to that very
byte while BUSY = 0, which makes it wdata[7:0]; OBUF a successful CHUNK_SERIALIZE below the new
OUT_LEN; PBUF a successful CHUNK_NEW or CHUNK_PARSE below the new CH_LENGTH (derived from R84 and R89;
in states that meet the invariant; the turn and the host's list are the model's, log entries 5 and
9). -/
def Obligations.BufferBytesChangeOnlyByTheirWriters : Prop :=
  ∀ (s t : State) (i : Nat), Inv s → step s = .next t → ¬ LeavesReset s →
    (readByte t .ibuf i ≠ readByte s .ibuf i →
      nextTurn s = .host ∧ s.rst = .high ∧ s.pendValid = false ∧
      ∃ q : Request, s.nextRequest q ∧ q.writesIbuf s i ∧
        readByte t .ibuf i = q.wdata.extractLsb' 0 8) ∧
    (readByte t .obuf i ≠ readByte s .obuf i →
      CommitsOk .chunkSerialize s t ∧ i < t.outLen.toNat) ∧
    (readByte t .pbuf i ≠ readByte s .pbuf i →
      (CommitsOk .chunkNew s t ∨ CommitsOk .chunkParse s t) ∧ i < t.chLength.toNat)

/-- OVR is set by the dropped writes of R295 and by nothing else, no commit clears it, and only
acceptance and reset do (derived from R36, R290, R292 and R295; the turn and the host's list are the
model's, log entries 5 and 9). -/
def Obligations.OverrunIsSticky : Prop :=
  ∀ s t : State, step s = .next t →
    (s.ovr = false → t.ovr = true →
      nextTurn s = .host ∧ s.rst = .high ∧ s.pendValid = true ∧
      ∃ q : Request, s.nextRequest q ∧ q.droppedWhileBusy s) ∧
    (s.ovr = true → t.ovr = false →
      (nextTurn s = .host ∧ s.rst = .high ∧ s.pendValid = false ∧ t.pendValid = true ∧
        ∃ q : Request, s.nextRequest q ∧ q.writesCmd) ∨ LeavesReset s) ∧
    (nextTurn s = .clk true → t.ovr = s.ovr)

/-- The commands read IBUF only below IN_LEN: states that differ only in IBUF bytes at or beyond it
commit to states that differ only there (derived from R40, R83 and R218). -/
def Obligations.CommandsReadOnlyBelowInLen : Prop :=
  ∀ (i : Instr) (s t : State) (m : Memory), (∀ k, k < s.inLen.toNat →
      readByte { s with ibuf := m } .ibuf k = readByte s .ibuf k) →
    exec i s = .next t → exec i { s with ibuf := m } = .next { t with ibuf := m }

/-- The unspecified bytes of OBUF, and those of PBUF outside the current chunk, reach no register and
no byte that a rule gives a meaning: states that differ only there commit to states that differ only
in OBUF and PBUF, with the same OBUF frame and the same chunk payload (derived from R84 and R291). -/
def Obligations.StaleBytesReachNothing : Prop :=
  ∀ (i : Instr) (s t : State) (mo mp : Memory),
    (s.chValid = true → ∀ k, k < s.chLength.toNat →
      readByte { s with obuf := mo, pbuf := mp } .pbuf k = readByte s .pbuf k) →
    exec i s = .next t →
    ∃ mo' mp', exec i { s with obuf := mo, pbuf := mp } = .next { t with obuf := mo', pbuf := mp' } ∧
      (i = .chunkSerialize → t.err = .ok → ∀ k, k < 12 + t.chLength.toNat →
        readByte { t with obuf := mo', pbuf := mp' } .obuf k = readByte t .obuf k) ∧
      (t.chValid = true → ∀ k, k < t.chLength.toNat →
        readByte { t with obuf := mo', pbuf := mp' } .pbuf k = readByte t .pbuf k)

/-! ### Reset and the invariant -/

/-- A falling rst_n abandons the command in flight; while it is low the host has no step; when it rises
after an edge the registers hold the values of the reset table (derived from R290; that the fall leaves
every register but BUSY as it was is the model's, DEDUCED, log entry 6). -/
def Obligations.ResetTable : Prop :=
  (∀ s : State, nextTurn s = .rstFall → s.rst = .high →
    step s = .next { s with pendValid := false, rst := .low false, turns := s.turns.tail }) ∧
  (∀ s : State, nextTurn s = .host → s.rst ≠ .high →
    step s = .next { s with turns := s.turns.tail }) ∧
  (∀ s t : State, nextTurn s = .rstRise → s.rst = .low true → step s = .next t →
    statusWord t = 0 ∧ t.errInfo = 0 ∧ t.caps = s.caps ∧ t.ctIn = 0 ∧ t.inLen = 0 ∧
    t.typeReg = 0 ∧ t.typeValid = false ∧ propsWord t = 0 ∧ t.chType = 0 ∧ t.chValid = false ∧
    chPropsWord t = 0 ∧ t.chLength = 0 ∧ t.chCrc = 0 ∧ t.outLen = 0 ∧ t.consumed = 0 ∧
    t.crcOut = 0 ∧ t.pendValid = false ∧ t.rst = .high) ∧
  ∀ s : State, nextTurn s = .rstRise → s.rst = .low true → ∃ t, step s = .next t

/-- R291: after reset every buffer byte is a free draw of its own place, whatever was there before;
the draws of a reset are a function of its number that nothing else constrains. -/
def Obligations.ResetLeavesBuffersFree : Prop :=
  ∀ (s t : State) (b : Buffer) (i : Nat), nextTurn s = .rstRise → s.rst = .low true →
    step s = .next t → readByte t b i = Config.freeByte (s.draws + 1) b i

/-- The invariant holds after reset for every legal MAX_PAYLOAD, State.reset among them (derived from
R290; the reference MAX_PAYLOAD and the value of pend_cmd are the model's choice, log entries 1 and
4). -/
def Obligations.ResetMeetsTheInvariant : Prop :=
  (∀ (m : Word) (d : Nat), Config.legalMaxPayload m.toNat = true → Inv (State.resetOf m d)) ∧
  Inv State.reset

/-- Every step keeps the invariant: the type registers stay alphabetic while their flags hold, the
current chunk's CRC stays the CRC of its payload and type, the buffers stay canonical and in bounds
(derived from R41, R43, R46, R47, R54, R221). -/
def Obligations.EveryStepKeepsTheInvariant : Prop :=
  ∀ s t : State, Inv s → step s = .next t → Inv t
end

