-- ==== Sys2Proof/Laws/State.lean ====
section
/-! SUPPORT. One lemma per field per update of the state, each true by rfl, so that no later proof
unfolds a record update. -/

namespace Sys2Proof.Machine

@[simp] theorem raise_eq (e : ResultCode) (i : Word) (s : State) : raise e i s = finish e i s := rfl
@[simp] theorem succeed_eq (s : State) : succeed s = finish .ok 0 s := rfl

@[simp] theorem finish_ovr (e : ResultCode) (i : Word) (s : State) : (finish e i s).ovr = s.ovr := rfl
@[simp] theorem finish_err (e : ResultCode) (i : Word) (s : State) : (finish e i s).err = e := rfl
@[simp] theorem finish_lastOp (e : ResultCode) (i : Word) (s : State) : (finish e i s).lastOp = s.lastOp := rfl
@[simp] theorem finish_pendValid (e : ResultCode) (i : Word) (s : State) : (finish e i s).pendValid = false := rfl
@[simp] theorem finish_pendCmd (e : ResultCode) (i : Word) (s : State) : (finish e i s).pendCmd = s.pendCmd := rfl
@[simp] theorem finish_errInfo (e : ResultCode) (i : Word) (s : State) : (finish e i s).errInfo = i := rfl
@[simp] theorem finish_caps (e : ResultCode) (i : Word) (s : State) : (finish e i s).caps = s.caps := rfl
@[simp] theorem finish_ctIn (e : ResultCode) (i : Word) (s : State) : (finish e i s).ctIn = s.ctIn := rfl
@[simp] theorem finish_inLen (e : ResultCode) (i : Word) (s : State) : (finish e i s).inLen = s.inLen := rfl
@[simp] theorem finish_typeReg (e : ResultCode) (i : Word) (s : State) : (finish e i s).typeReg = s.typeReg := rfl
@[simp] theorem finish_typeValid (e : ResultCode) (i : Word) (s : State) : (finish e i s).typeValid = s.typeValid := rfl
@[simp] theorem finish_chType (e : ResultCode) (i : Word) (s : State) : (finish e i s).chType = s.chType := rfl
@[simp] theorem finish_chValid (e : ResultCode) (i : Word) (s : State) : (finish e i s).chValid = s.chValid := rfl
@[simp] theorem finish_chLength (e : ResultCode) (i : Word) (s : State) : (finish e i s).chLength = s.chLength := rfl
@[simp] theorem finish_chCrc (e : ResultCode) (i : Word) (s : State) : (finish e i s).chCrc = s.chCrc := rfl
@[simp] theorem finish_outLen (e : ResultCode) (i : Word) (s : State) : (finish e i s).outLen = s.outLen := rfl
@[simp] theorem finish_consumed (e : ResultCode) (i : Word) (s : State) : (finish e i s).consumed = s.consumed := rfl
@[simp] theorem finish_crcOut (e : ResultCode) (i : Word) (s : State) : (finish e i s).crcOut = s.crcOut := rfl
@[simp] theorem finish_ibuf (e : ResultCode) (i : Word) (s : State) : (finish e i s).ibuf = s.ibuf := rfl
@[simp] theorem finish_obuf (e : ResultCode) (i : Word) (s : State) : (finish e i s).obuf = s.obuf := rfl
@[simp] theorem finish_pbuf (e : ResultCode) (i : Word) (s : State) : (finish e i s).pbuf = s.pbuf := rfl
@[simp] theorem finish_rst (e : ResultCode) (i : Word) (s : State) : (finish e i s).rst = s.rst := rfl
@[simp] theorem finish_draws (e : ResultCode) (i : Word) (s : State) : (finish e i s).draws = s.draws := rfl
@[simp] theorem finish_host (e : ResultCode) (i : Word) (s : State) : (finish e i s).host = s.host := rfl
@[simp] theorem finish_turns (e : ResultCode) (i : Word) (s : State) : (finish e i s).turns = s.turns := rfl
@[simp] theorem finish_responses (e : ResultCode) (i : Word) (s : State) : (finish e i s).responses = s.responses := rfl

@[simp] theorem setType_ovr (t : Word) (s : State) : (setType t s).ovr = s.ovr := rfl
@[simp] theorem setType_err (t : Word) (s : State) : (setType t s).err = s.err := rfl
@[simp] theorem setType_lastOp (t : Word) (s : State) : (setType t s).lastOp = s.lastOp := rfl
@[simp] theorem setType_pendValid (t : Word) (s : State) : (setType t s).pendValid = s.pendValid := rfl
@[simp] theorem setType_pendCmd (t : Word) (s : State) : (setType t s).pendCmd = s.pendCmd := rfl
@[simp] theorem setType_errInfo (t : Word) (s : State) : (setType t s).errInfo = s.errInfo := rfl
@[simp] theorem setType_caps (t : Word) (s : State) : (setType t s).caps = s.caps := rfl
@[simp] theorem setType_ctIn (t : Word) (s : State) : (setType t s).ctIn = s.ctIn := rfl
@[simp] theorem setType_inLen (t : Word) (s : State) : (setType t s).inLen = s.inLen := rfl
@[simp] theorem setType_typeReg (t : Word) (s : State) : (setType t s).typeReg = t := rfl
@[simp] theorem setType_typeValid (t : Word) (s : State) : (setType t s).typeValid = true := rfl
@[simp] theorem setType_chType (t : Word) (s : State) : (setType t s).chType = s.chType := rfl
@[simp] theorem setType_chValid (t : Word) (s : State) : (setType t s).chValid = s.chValid := rfl
@[simp] theorem setType_chLength (t : Word) (s : State) : (setType t s).chLength = s.chLength := rfl
@[simp] theorem setType_chCrc (t : Word) (s : State) : (setType t s).chCrc = s.chCrc := rfl
@[simp] theorem setType_outLen (t : Word) (s : State) : (setType t s).outLen = s.outLen := rfl
@[simp] theorem setType_consumed (t : Word) (s : State) : (setType t s).consumed = s.consumed := rfl
@[simp] theorem setType_crcOut (t : Word) (s : State) : (setType t s).crcOut = s.crcOut := rfl
@[simp] theorem setType_ibuf (t : Word) (s : State) : (setType t s).ibuf = s.ibuf := rfl
@[simp] theorem setType_obuf (t : Word) (s : State) : (setType t s).obuf = s.obuf := rfl
@[simp] theorem setType_pbuf (t : Word) (s : State) : (setType t s).pbuf = s.pbuf := rfl
@[simp] theorem setType_rst (t : Word) (s : State) : (setType t s).rst = s.rst := rfl
@[simp] theorem setType_draws (t : Word) (s : State) : (setType t s).draws = s.draws := rfl
@[simp] theorem setType_host (t : Word) (s : State) : (setType t s).host = s.host := rfl
@[simp] theorem setType_turns (t : Word) (s : State) : (setType t s).turns = s.turns := rfl
@[simp] theorem setType_responses (t : Word) (s : State) : (setType t s).responses = s.responses := rfl

@[simp] theorem setCrcOut_ovr (c : Word) (s : State) : (setCrcOut c s).ovr = s.ovr := rfl
@[simp] theorem setCrcOut_err (c : Word) (s : State) : (setCrcOut c s).err = s.err := rfl
@[simp] theorem setCrcOut_lastOp (c : Word) (s : State) : (setCrcOut c s).lastOp = s.lastOp := rfl
@[simp] theorem setCrcOut_pendValid (c : Word) (s : State) : (setCrcOut c s).pendValid = s.pendValid := rfl
@[simp] theorem setCrcOut_pendCmd (c : Word) (s : State) : (setCrcOut c s).pendCmd = s.pendCmd := rfl
@[simp] theorem setCrcOut_errInfo (c : Word) (s : State) : (setCrcOut c s).errInfo = s.errInfo := rfl
@[simp] theorem setCrcOut_caps (c : Word) (s : State) : (setCrcOut c s).caps = s.caps := rfl
@[simp] theorem setCrcOut_ctIn (c : Word) (s : State) : (setCrcOut c s).ctIn = s.ctIn := rfl
@[simp] theorem setCrcOut_inLen (c : Word) (s : State) : (setCrcOut c s).inLen = s.inLen := rfl
@[simp] theorem setCrcOut_typeReg (c : Word) (s : State) : (setCrcOut c s).typeReg = s.typeReg := rfl
@[simp] theorem setCrcOut_typeValid (c : Word) (s : State) : (setCrcOut c s).typeValid = s.typeValid := rfl
@[simp] theorem setCrcOut_chType (c : Word) (s : State) : (setCrcOut c s).chType = s.chType := rfl
@[simp] theorem setCrcOut_chValid (c : Word) (s : State) : (setCrcOut c s).chValid = s.chValid := rfl
@[simp] theorem setCrcOut_chLength (c : Word) (s : State) : (setCrcOut c s).chLength = s.chLength := rfl
@[simp] theorem setCrcOut_chCrc (c : Word) (s : State) : (setCrcOut c s).chCrc = s.chCrc := rfl
@[simp] theorem setCrcOut_outLen (c : Word) (s : State) : (setCrcOut c s).outLen = s.outLen := rfl
@[simp] theorem setCrcOut_consumed (c : Word) (s : State) : (setCrcOut c s).consumed = s.consumed := rfl
@[simp] theorem setCrcOut_crcOut (c : Word) (s : State) : (setCrcOut c s).crcOut = c := rfl
@[simp] theorem setCrcOut_ibuf (c : Word) (s : State) : (setCrcOut c s).ibuf = s.ibuf := rfl
@[simp] theorem setCrcOut_obuf (c : Word) (s : State) : (setCrcOut c s).obuf = s.obuf := rfl
@[simp] theorem setCrcOut_pbuf (c : Word) (s : State) : (setCrcOut c s).pbuf = s.pbuf := rfl
@[simp] theorem setCrcOut_rst (c : Word) (s : State) : (setCrcOut c s).rst = s.rst := rfl
@[simp] theorem setCrcOut_draws (c : Word) (s : State) : (setCrcOut c s).draws = s.draws := rfl
@[simp] theorem setCrcOut_host (c : Word) (s : State) : (setCrcOut c s).host = s.host := rfl
@[simp] theorem setCrcOut_turns (c : Word) (s : State) : (setCrcOut c s).turns = s.turns := rfl
@[simp] theorem setCrcOut_responses (c : Word) (s : State) : (setCrcOut c s).responses = s.responses := rfl

@[simp] theorem setChunk_ovr (t l c : Word) (p : List Byte) (s : State) : (setChunk t l c p s).ovr = s.ovr := rfl
@[simp] theorem setChunk_err (t l c : Word) (p : List Byte) (s : State) : (setChunk t l c p s).err = s.err := rfl
@[simp] theorem setChunk_lastOp (t l c : Word) (p : List Byte) (s : State) : (setChunk t l c p s).lastOp = s.lastOp := rfl
@[simp] theorem setChunk_pendValid (t l c : Word) (p : List Byte) (s : State) : (setChunk t l c p s).pendValid = s.pendValid := rfl
@[simp] theorem setChunk_pendCmd (t l c : Word) (p : List Byte) (s : State) : (setChunk t l c p s).pendCmd = s.pendCmd := rfl
@[simp] theorem setChunk_errInfo (t l c : Word) (p : List Byte) (s : State) : (setChunk t l c p s).errInfo = s.errInfo := rfl
@[simp] theorem setChunk_caps (t l c : Word) (p : List Byte) (s : State) : (setChunk t l c p s).caps = s.caps := rfl
@[simp] theorem setChunk_ctIn (t l c : Word) (p : List Byte) (s : State) : (setChunk t l c p s).ctIn = s.ctIn := rfl
@[simp] theorem setChunk_inLen (t l c : Word) (p : List Byte) (s : State) : (setChunk t l c p s).inLen = s.inLen := rfl
@[simp] theorem setChunk_typeReg (t l c : Word) (p : List Byte) (s : State) : (setChunk t l c p s).typeReg = s.typeReg := rfl
@[simp] theorem setChunk_typeValid (t l c : Word) (p : List Byte) (s : State) : (setChunk t l c p s).typeValid = s.typeValid := rfl
@[simp] theorem setChunk_chType (t l c : Word) (p : List Byte) (s : State) : (setChunk t l c p s).chType = t := rfl
@[simp] theorem setChunk_chValid (t l c : Word) (p : List Byte) (s : State) : (setChunk t l c p s).chValid = true := rfl
@[simp] theorem setChunk_chLength (t l c : Word) (p : List Byte) (s : State) : (setChunk t l c p s).chLength = l := rfl
@[simp] theorem setChunk_chCrc (t l c : Word) (p : List Byte) (s : State) : (setChunk t l c p s).chCrc = c := rfl
@[simp] theorem setChunk_outLen (t l c : Word) (p : List Byte) (s : State) : (setChunk t l c p s).outLen = s.outLen := rfl
@[simp] theorem setChunk_consumed (t l c : Word) (p : List Byte) (s : State) : (setChunk t l c p s).consumed = s.consumed := rfl
@[simp] theorem setChunk_crcOut (t l c : Word) (p : List Byte) (s : State) : (setChunk t l c p s).crcOut = s.crcOut := rfl
@[simp] theorem setChunk_ibuf (t l c : Word) (p : List Byte) (s : State) : (setChunk t l c p s).ibuf = s.ibuf := rfl
@[simp] theorem setChunk_obuf (t l c : Word) (p : List Byte) (s : State) : (setChunk t l c p s).obuf = s.obuf := rfl
@[simp] theorem setChunk_pbuf (t l c : Word) (p : List Byte) (s : State) : (setChunk t l c p s).pbuf = Memory.store s.pbuf 0 p := rfl
@[simp] theorem setChunk_rst (t l c : Word) (p : List Byte) (s : State) : (setChunk t l c p s).rst = s.rst := rfl
@[simp] theorem setChunk_draws (t l c : Word) (p : List Byte) (s : State) : (setChunk t l c p s).draws = s.draws := rfl
@[simp] theorem setChunk_host (t l c : Word) (p : List Byte) (s : State) : (setChunk t l c p s).host = s.host := rfl
@[simp] theorem setChunk_turns (t l c : Word) (p : List Byte) (s : State) : (setChunk t l c p s).turns = s.turns := rfl
@[simp] theorem setChunk_responses (t l c : Word) (p : List Byte) (s : State) : (setChunk t l c p s).responses = s.responses := rfl

@[simp] theorem setOutput_ovr (f : List Byte) (l : Word) (s : State) : (setOutput f l s).ovr = s.ovr := rfl
@[simp] theorem setOutput_err (f : List Byte) (l : Word) (s : State) : (setOutput f l s).err = s.err := rfl
@[simp] theorem setOutput_lastOp (f : List Byte) (l : Word) (s : State) : (setOutput f l s).lastOp = s.lastOp := rfl
@[simp] theorem setOutput_pendValid (f : List Byte) (l : Word) (s : State) : (setOutput f l s).pendValid = s.pendValid := rfl
@[simp] theorem setOutput_pendCmd (f : List Byte) (l : Word) (s : State) : (setOutput f l s).pendCmd = s.pendCmd := rfl
@[simp] theorem setOutput_errInfo (f : List Byte) (l : Word) (s : State) : (setOutput f l s).errInfo = s.errInfo := rfl
@[simp] theorem setOutput_caps (f : List Byte) (l : Word) (s : State) : (setOutput f l s).caps = s.caps := rfl
@[simp] theorem setOutput_ctIn (f : List Byte) (l : Word) (s : State) : (setOutput f l s).ctIn = s.ctIn := rfl
@[simp] theorem setOutput_inLen (f : List Byte) (l : Word) (s : State) : (setOutput f l s).inLen = s.inLen := rfl
@[simp] theorem setOutput_typeReg (f : List Byte) (l : Word) (s : State) : (setOutput f l s).typeReg = s.typeReg := rfl
@[simp] theorem setOutput_typeValid (f : List Byte) (l : Word) (s : State) : (setOutput f l s).typeValid = s.typeValid := rfl
@[simp] theorem setOutput_chType (f : List Byte) (l : Word) (s : State) : (setOutput f l s).chType = s.chType := rfl
@[simp] theorem setOutput_chValid (f : List Byte) (l : Word) (s : State) : (setOutput f l s).chValid = s.chValid := rfl
@[simp] theorem setOutput_chLength (f : List Byte) (l : Word) (s : State) : (setOutput f l s).chLength = s.chLength := rfl
@[simp] theorem setOutput_chCrc (f : List Byte) (l : Word) (s : State) : (setOutput f l s).chCrc = s.chCrc := rfl
@[simp] theorem setOutput_outLen (f : List Byte) (l : Word) (s : State) : (setOutput f l s).outLen = l := rfl
@[simp] theorem setOutput_consumed (f : List Byte) (l : Word) (s : State) : (setOutput f l s).consumed = s.consumed := rfl
@[simp] theorem setOutput_crcOut (f : List Byte) (l : Word) (s : State) : (setOutput f l s).crcOut = s.crcOut := rfl
@[simp] theorem setOutput_ibuf (f : List Byte) (l : Word) (s : State) : (setOutput f l s).ibuf = s.ibuf := rfl
@[simp] theorem setOutput_obuf (f : List Byte) (l : Word) (s : State) : (setOutput f l s).obuf = Memory.store s.obuf 0 f := rfl
@[simp] theorem setOutput_pbuf (f : List Byte) (l : Word) (s : State) : (setOutput f l s).pbuf = s.pbuf := rfl
@[simp] theorem setOutput_rst (f : List Byte) (l : Word) (s : State) : (setOutput f l s).rst = s.rst := rfl
@[simp] theorem setOutput_draws (f : List Byte) (l : Word) (s : State) : (setOutput f l s).draws = s.draws := rfl
@[simp] theorem setOutput_host (f : List Byte) (l : Word) (s : State) : (setOutput f l s).host = s.host := rfl
@[simp] theorem setOutput_turns (f : List Byte) (l : Word) (s : State) : (setOutput f l s).turns = s.turns := rfl
@[simp] theorem setOutput_responses (f : List Byte) (l : Word) (s : State) : (setOutput f l s).responses = s.responses := rfl

@[simp] theorem setConsumed_ovr (n : Word) (s : State) : (setConsumed n s).ovr = s.ovr := rfl
@[simp] theorem setConsumed_err (n : Word) (s : State) : (setConsumed n s).err = s.err := rfl
@[simp] theorem setConsumed_lastOp (n : Word) (s : State) : (setConsumed n s).lastOp = s.lastOp := rfl
@[simp] theorem setConsumed_pendValid (n : Word) (s : State) : (setConsumed n s).pendValid = s.pendValid := rfl
@[simp] theorem setConsumed_pendCmd (n : Word) (s : State) : (setConsumed n s).pendCmd = s.pendCmd := rfl
@[simp] theorem setConsumed_errInfo (n : Word) (s : State) : (setConsumed n s).errInfo = s.errInfo := rfl
@[simp] theorem setConsumed_caps (n : Word) (s : State) : (setConsumed n s).caps = s.caps := rfl
@[simp] theorem setConsumed_ctIn (n : Word) (s : State) : (setConsumed n s).ctIn = s.ctIn := rfl
@[simp] theorem setConsumed_inLen (n : Word) (s : State) : (setConsumed n s).inLen = s.inLen := rfl
@[simp] theorem setConsumed_typeReg (n : Word) (s : State) : (setConsumed n s).typeReg = s.typeReg := rfl
@[simp] theorem setConsumed_typeValid (n : Word) (s : State) : (setConsumed n s).typeValid = s.typeValid := rfl
@[simp] theorem setConsumed_chType (n : Word) (s : State) : (setConsumed n s).chType = s.chType := rfl
@[simp] theorem setConsumed_chValid (n : Word) (s : State) : (setConsumed n s).chValid = s.chValid := rfl
@[simp] theorem setConsumed_chLength (n : Word) (s : State) : (setConsumed n s).chLength = s.chLength := rfl
@[simp] theorem setConsumed_chCrc (n : Word) (s : State) : (setConsumed n s).chCrc = s.chCrc := rfl
@[simp] theorem setConsumed_outLen (n : Word) (s : State) : (setConsumed n s).outLen = s.outLen := rfl
@[simp] theorem setConsumed_consumed (n : Word) (s : State) : (setConsumed n s).consumed = n := rfl
@[simp] theorem setConsumed_crcOut (n : Word) (s : State) : (setConsumed n s).crcOut = s.crcOut := rfl
@[simp] theorem setConsumed_ibuf (n : Word) (s : State) : (setConsumed n s).ibuf = s.ibuf := rfl
@[simp] theorem setConsumed_obuf (n : Word) (s : State) : (setConsumed n s).obuf = s.obuf := rfl
@[simp] theorem setConsumed_pbuf (n : Word) (s : State) : (setConsumed n s).pbuf = s.pbuf := rfl
@[simp] theorem setConsumed_rst (n : Word) (s : State) : (setConsumed n s).rst = s.rst := rfl
@[simp] theorem setConsumed_draws (n : Word) (s : State) : (setConsumed n s).draws = s.draws := rfl
@[simp] theorem setConsumed_host (n : Word) (s : State) : (setConsumed n s).host = s.host := rfl
@[simp] theorem setConsumed_turns (n : Word) (s : State) : (setConsumed n s).turns = s.turns := rfl
@[simp] theorem setConsumed_responses (n : Word) (s : State) : (setConsumed n s).responses = s.responses := rfl

@[simp] theorem accept_ovr (w : Word) (s : State) : (accept w s).ovr = false := rfl
@[simp] theorem accept_err (w : Word) (s : State) : (accept w s).err = s.err := rfl
@[simp] theorem accept_lastOp (w : Word) (s : State) : (accept w s).lastOp = w.extractLsb' 0 8 := rfl
@[simp] theorem accept_pendValid (w : Word) (s : State) : (accept w s).pendValid = true := rfl
@[simp] theorem accept_pendCmd (w : Word) (s : State) : (accept w s).pendCmd = w := rfl
@[simp] theorem accept_errInfo (w : Word) (s : State) : (accept w s).errInfo = s.errInfo := rfl
@[simp] theorem accept_caps (w : Word) (s : State) : (accept w s).caps = s.caps := rfl
@[simp] theorem accept_ctIn (w : Word) (s : State) : (accept w s).ctIn = s.ctIn := rfl
@[simp] theorem accept_inLen (w : Word) (s : State) : (accept w s).inLen = s.inLen := rfl
@[simp] theorem accept_typeReg (w : Word) (s : State) : (accept w s).typeReg = s.typeReg := rfl
@[simp] theorem accept_typeValid (w : Word) (s : State) : (accept w s).typeValid = s.typeValid := rfl
@[simp] theorem accept_chType (w : Word) (s : State) : (accept w s).chType = s.chType := rfl
@[simp] theorem accept_chValid (w : Word) (s : State) : (accept w s).chValid = s.chValid := rfl
@[simp] theorem accept_chLength (w : Word) (s : State) : (accept w s).chLength = s.chLength := rfl
@[simp] theorem accept_chCrc (w : Word) (s : State) : (accept w s).chCrc = s.chCrc := rfl
@[simp] theorem accept_outLen (w : Word) (s : State) : (accept w s).outLen = s.outLen := rfl
@[simp] theorem accept_consumed (w : Word) (s : State) : (accept w s).consumed = s.consumed := rfl
@[simp] theorem accept_crcOut (w : Word) (s : State) : (accept w s).crcOut = s.crcOut := rfl
@[simp] theorem accept_ibuf (w : Word) (s : State) : (accept w s).ibuf = s.ibuf := rfl
@[simp] theorem accept_obuf (w : Word) (s : State) : (accept w s).obuf = s.obuf := rfl
@[simp] theorem accept_pbuf (w : Word) (s : State) : (accept w s).pbuf = s.pbuf := rfl
@[simp] theorem accept_rst (w : Word) (s : State) : (accept w s).rst = s.rst := rfl
@[simp] theorem accept_draws (w : Word) (s : State) : (accept w s).draws = s.draws := rfl
@[simp] theorem accept_host (w : Word) (s : State) : (accept w s).host = s.host := rfl
@[simp] theorem accept_turns (w : Word) (s : State) : (accept w s).turns = s.turns := rfl
@[simp] theorem accept_responses (w : Word) (s : State) : (accept w s).responses = s.responses := rfl

@[simp] theorem dropWrite_ovr (s : State) : (dropWrite s).ovr = true := rfl
@[simp] theorem dropWrite_err (s : State) : (dropWrite s).err = s.err := rfl
@[simp] theorem dropWrite_lastOp (s : State) : (dropWrite s).lastOp = s.lastOp := rfl
@[simp] theorem dropWrite_pendValid (s : State) : (dropWrite s).pendValid = s.pendValid := rfl
@[simp] theorem dropWrite_pendCmd (s : State) : (dropWrite s).pendCmd = s.pendCmd := rfl
@[simp] theorem dropWrite_errInfo (s : State) : (dropWrite s).errInfo = s.errInfo := rfl
@[simp] theorem dropWrite_caps (s : State) : (dropWrite s).caps = s.caps := rfl
@[simp] theorem dropWrite_ctIn (s : State) : (dropWrite s).ctIn = s.ctIn := rfl
@[simp] theorem dropWrite_inLen (s : State) : (dropWrite s).inLen = s.inLen := rfl
@[simp] theorem dropWrite_typeReg (s : State) : (dropWrite s).typeReg = s.typeReg := rfl
@[simp] theorem dropWrite_typeValid (s : State) : (dropWrite s).typeValid = s.typeValid := rfl
@[simp] theorem dropWrite_chType (s : State) : (dropWrite s).chType = s.chType := rfl
@[simp] theorem dropWrite_chValid (s : State) : (dropWrite s).chValid = s.chValid := rfl
@[simp] theorem dropWrite_chLength (s : State) : (dropWrite s).chLength = s.chLength := rfl
@[simp] theorem dropWrite_chCrc (s : State) : (dropWrite s).chCrc = s.chCrc := rfl
@[simp] theorem dropWrite_outLen (s : State) : (dropWrite s).outLen = s.outLen := rfl
@[simp] theorem dropWrite_consumed (s : State) : (dropWrite s).consumed = s.consumed := rfl
@[simp] theorem dropWrite_crcOut (s : State) : (dropWrite s).crcOut = s.crcOut := rfl
@[simp] theorem dropWrite_ibuf (s : State) : (dropWrite s).ibuf = s.ibuf := rfl
@[simp] theorem dropWrite_obuf (s : State) : (dropWrite s).obuf = s.obuf := rfl
@[simp] theorem dropWrite_pbuf (s : State) : (dropWrite s).pbuf = s.pbuf := rfl
@[simp] theorem dropWrite_rst (s : State) : (dropWrite s).rst = s.rst := rfl
@[simp] theorem dropWrite_draws (s : State) : (dropWrite s).draws = s.draws := rfl
@[simp] theorem dropWrite_host (s : State) : (dropWrite s).host = s.host := rfl
@[simp] theorem dropWrite_turns (s : State) : (dropWrite s).turns = s.turns := rfl
@[simp] theorem dropWrite_responses (s : State) : (dropWrite s).responses = s.responses := rfl

@[simp] theorem setCtIn_ovr (w : Word) (s : State) : (setCtIn w s).ovr = s.ovr := rfl
@[simp] theorem setCtIn_err (w : Word) (s : State) : (setCtIn w s).err = s.err := rfl
@[simp] theorem setCtIn_lastOp (w : Word) (s : State) : (setCtIn w s).lastOp = s.lastOp := rfl
@[simp] theorem setCtIn_pendValid (w : Word) (s : State) : (setCtIn w s).pendValid = s.pendValid := rfl
@[simp] theorem setCtIn_pendCmd (w : Word) (s : State) : (setCtIn w s).pendCmd = s.pendCmd := rfl
@[simp] theorem setCtIn_errInfo (w : Word) (s : State) : (setCtIn w s).errInfo = s.errInfo := rfl
@[simp] theorem setCtIn_caps (w : Word) (s : State) : (setCtIn w s).caps = s.caps := rfl
@[simp] theorem setCtIn_ctIn (w : Word) (s : State) : (setCtIn w s).ctIn = w := rfl
@[simp] theorem setCtIn_inLen (w : Word) (s : State) : (setCtIn w s).inLen = s.inLen := rfl
@[simp] theorem setCtIn_typeReg (w : Word) (s : State) : (setCtIn w s).typeReg = s.typeReg := rfl
@[simp] theorem setCtIn_typeValid (w : Word) (s : State) : (setCtIn w s).typeValid = s.typeValid := rfl
@[simp] theorem setCtIn_chType (w : Word) (s : State) : (setCtIn w s).chType = s.chType := rfl
@[simp] theorem setCtIn_chValid (w : Word) (s : State) : (setCtIn w s).chValid = s.chValid := rfl
@[simp] theorem setCtIn_chLength (w : Word) (s : State) : (setCtIn w s).chLength = s.chLength := rfl
@[simp] theorem setCtIn_chCrc (w : Word) (s : State) : (setCtIn w s).chCrc = s.chCrc := rfl
@[simp] theorem setCtIn_outLen (w : Word) (s : State) : (setCtIn w s).outLen = s.outLen := rfl
@[simp] theorem setCtIn_consumed (w : Word) (s : State) : (setCtIn w s).consumed = s.consumed := rfl
@[simp] theorem setCtIn_crcOut (w : Word) (s : State) : (setCtIn w s).crcOut = s.crcOut := rfl
@[simp] theorem setCtIn_ibuf (w : Word) (s : State) : (setCtIn w s).ibuf = s.ibuf := rfl
@[simp] theorem setCtIn_obuf (w : Word) (s : State) : (setCtIn w s).obuf = s.obuf := rfl
@[simp] theorem setCtIn_pbuf (w : Word) (s : State) : (setCtIn w s).pbuf = s.pbuf := rfl
@[simp] theorem setCtIn_rst (w : Word) (s : State) : (setCtIn w s).rst = s.rst := rfl
@[simp] theorem setCtIn_draws (w : Word) (s : State) : (setCtIn w s).draws = s.draws := rfl
@[simp] theorem setCtIn_host (w : Word) (s : State) : (setCtIn w s).host = s.host := rfl
@[simp] theorem setCtIn_turns (w : Word) (s : State) : (setCtIn w s).turns = s.turns := rfl
@[simp] theorem setCtIn_responses (w : Word) (s : State) : (setCtIn w s).responses = s.responses := rfl

@[simp] theorem setInLen_ovr (w : Word) (s : State) : (setInLen w s).ovr = s.ovr := rfl
@[simp] theorem setInLen_err (w : Word) (s : State) : (setInLen w s).err = s.err := rfl
@[simp] theorem setInLen_lastOp (w : Word) (s : State) : (setInLen w s).lastOp = s.lastOp := rfl
@[simp] theorem setInLen_pendValid (w : Word) (s : State) : (setInLen w s).pendValid = s.pendValid := rfl
@[simp] theorem setInLen_pendCmd (w : Word) (s : State) : (setInLen w s).pendCmd = s.pendCmd := rfl
@[simp] theorem setInLen_errInfo (w : Word) (s : State) : (setInLen w s).errInfo = s.errInfo := rfl
@[simp] theorem setInLen_caps (w : Word) (s : State) : (setInLen w s).caps = s.caps := rfl
@[simp] theorem setInLen_ctIn (w : Word) (s : State) : (setInLen w s).ctIn = s.ctIn := rfl
@[simp] theorem setInLen_inLen (w : Word) (s : State) : (setInLen w s).inLen = w := rfl
@[simp] theorem setInLen_typeReg (w : Word) (s : State) : (setInLen w s).typeReg = s.typeReg := rfl
@[simp] theorem setInLen_typeValid (w : Word) (s : State) : (setInLen w s).typeValid = s.typeValid := rfl
@[simp] theorem setInLen_chType (w : Word) (s : State) : (setInLen w s).chType = s.chType := rfl
@[simp] theorem setInLen_chValid (w : Word) (s : State) : (setInLen w s).chValid = s.chValid := rfl
@[simp] theorem setInLen_chLength (w : Word) (s : State) : (setInLen w s).chLength = s.chLength := rfl
@[simp] theorem setInLen_chCrc (w : Word) (s : State) : (setInLen w s).chCrc = s.chCrc := rfl
@[simp] theorem setInLen_outLen (w : Word) (s : State) : (setInLen w s).outLen = s.outLen := rfl
@[simp] theorem setInLen_consumed (w : Word) (s : State) : (setInLen w s).consumed = s.consumed := rfl
@[simp] theorem setInLen_crcOut (w : Word) (s : State) : (setInLen w s).crcOut = s.crcOut := rfl
@[simp] theorem setInLen_ibuf (w : Word) (s : State) : (setInLen w s).ibuf = s.ibuf := rfl
@[simp] theorem setInLen_obuf (w : Word) (s : State) : (setInLen w s).obuf = s.obuf := rfl
@[simp] theorem setInLen_pbuf (w : Word) (s : State) : (setInLen w s).pbuf = s.pbuf := rfl
@[simp] theorem setInLen_rst (w : Word) (s : State) : (setInLen w s).rst = s.rst := rfl
@[simp] theorem setInLen_draws (w : Word) (s : State) : (setInLen w s).draws = s.draws := rfl
@[simp] theorem setInLen_host (w : Word) (s : State) : (setInLen w s).host = s.host := rfl
@[simp] theorem setInLen_turns (w : Word) (s : State) : (setInLen w s).turns = s.turns := rfl
@[simp] theorem setInLen_responses (w : Word) (s : State) : (setInLen w s).responses = s.responses := rfl

@[simp] theorem setIbufByte_ovr (k : Nat) (b : Byte) (s : State) : (setIbufByte k b s).ovr = s.ovr := rfl
@[simp] theorem setIbufByte_err (k : Nat) (b : Byte) (s : State) : (setIbufByte k b s).err = s.err := rfl
@[simp] theorem setIbufByte_lastOp (k : Nat) (b : Byte) (s : State) : (setIbufByte k b s).lastOp = s.lastOp := rfl
@[simp] theorem setIbufByte_pendValid (k : Nat) (b : Byte) (s : State) : (setIbufByte k b s).pendValid = s.pendValid := rfl
@[simp] theorem setIbufByte_pendCmd (k : Nat) (b : Byte) (s : State) : (setIbufByte k b s).pendCmd = s.pendCmd := rfl
@[simp] theorem setIbufByte_errInfo (k : Nat) (b : Byte) (s : State) : (setIbufByte k b s).errInfo = s.errInfo := rfl
@[simp] theorem setIbufByte_caps (k : Nat) (b : Byte) (s : State) : (setIbufByte k b s).caps = s.caps := rfl
@[simp] theorem setIbufByte_ctIn (k : Nat) (b : Byte) (s : State) : (setIbufByte k b s).ctIn = s.ctIn := rfl
@[simp] theorem setIbufByte_inLen (k : Nat) (b : Byte) (s : State) : (setIbufByte k b s).inLen = s.inLen := rfl
@[simp] theorem setIbufByte_typeReg (k : Nat) (b : Byte) (s : State) : (setIbufByte k b s).typeReg = s.typeReg := rfl
@[simp] theorem setIbufByte_typeValid (k : Nat) (b : Byte) (s : State) : (setIbufByte k b s).typeValid = s.typeValid := rfl
@[simp] theorem setIbufByte_chType (k : Nat) (b : Byte) (s : State) : (setIbufByte k b s).chType = s.chType := rfl
@[simp] theorem setIbufByte_chValid (k : Nat) (b : Byte) (s : State) : (setIbufByte k b s).chValid = s.chValid := rfl
@[simp] theorem setIbufByte_chLength (k : Nat) (b : Byte) (s : State) : (setIbufByte k b s).chLength = s.chLength := rfl
@[simp] theorem setIbufByte_chCrc (k : Nat) (b : Byte) (s : State) : (setIbufByte k b s).chCrc = s.chCrc := rfl
@[simp] theorem setIbufByte_outLen (k : Nat) (b : Byte) (s : State) : (setIbufByte k b s).outLen = s.outLen := rfl
@[simp] theorem setIbufByte_consumed (k : Nat) (b : Byte) (s : State) : (setIbufByte k b s).consumed = s.consumed := rfl
@[simp] theorem setIbufByte_crcOut (k : Nat) (b : Byte) (s : State) : (setIbufByte k b s).crcOut = s.crcOut := rfl
@[simp] theorem setIbufByte_ibuf (k : Nat) (b : Byte) (s : State) : (setIbufByte k b s).ibuf = Memory.store s.ibuf k [b] := rfl
@[simp] theorem setIbufByte_obuf (k : Nat) (b : Byte) (s : State) : (setIbufByte k b s).obuf = s.obuf := rfl
@[simp] theorem setIbufByte_pbuf (k : Nat) (b : Byte) (s : State) : (setIbufByte k b s).pbuf = s.pbuf := rfl
@[simp] theorem setIbufByte_rst (k : Nat) (b : Byte) (s : State) : (setIbufByte k b s).rst = s.rst := rfl
@[simp] theorem setIbufByte_draws (k : Nat) (b : Byte) (s : State) : (setIbufByte k b s).draws = s.draws := rfl
@[simp] theorem setIbufByte_host (k : Nat) (b : Byte) (s : State) : (setIbufByte k b s).host = s.host := rfl
@[simp] theorem setIbufByte_turns (k : Nat) (b : Byte) (s : State) : (setIbufByte k b s).turns = s.turns := rfl
@[simp] theorem setIbufByte_responses (k : Nat) (b : Byte) (s : State) : (setIbufByte k b s).responses = s.responses := rfl

@[simp] theorem respond_ovr (r : Response) (s : State) : (respond r s).ovr = s.ovr := rfl
@[simp] theorem respond_err (r : Response) (s : State) : (respond r s).err = s.err := rfl
@[simp] theorem respond_lastOp (r : Response) (s : State) : (respond r s).lastOp = s.lastOp := rfl
@[simp] theorem respond_pendValid (r : Response) (s : State) : (respond r s).pendValid = s.pendValid := rfl
@[simp] theorem respond_pendCmd (r : Response) (s : State) : (respond r s).pendCmd = s.pendCmd := rfl
@[simp] theorem respond_errInfo (r : Response) (s : State) : (respond r s).errInfo = s.errInfo := rfl
@[simp] theorem respond_caps (r : Response) (s : State) : (respond r s).caps = s.caps := rfl
@[simp] theorem respond_ctIn (r : Response) (s : State) : (respond r s).ctIn = s.ctIn := rfl
@[simp] theorem respond_inLen (r : Response) (s : State) : (respond r s).inLen = s.inLen := rfl
@[simp] theorem respond_typeReg (r : Response) (s : State) : (respond r s).typeReg = s.typeReg := rfl
@[simp] theorem respond_typeValid (r : Response) (s : State) : (respond r s).typeValid = s.typeValid := rfl
@[simp] theorem respond_chType (r : Response) (s : State) : (respond r s).chType = s.chType := rfl
@[simp] theorem respond_chValid (r : Response) (s : State) : (respond r s).chValid = s.chValid := rfl
@[simp] theorem respond_chLength (r : Response) (s : State) : (respond r s).chLength = s.chLength := rfl
@[simp] theorem respond_chCrc (r : Response) (s : State) : (respond r s).chCrc = s.chCrc := rfl
@[simp] theorem respond_outLen (r : Response) (s : State) : (respond r s).outLen = s.outLen := rfl
@[simp] theorem respond_consumed (r : Response) (s : State) : (respond r s).consumed = s.consumed := rfl
@[simp] theorem respond_crcOut (r : Response) (s : State) : (respond r s).crcOut = s.crcOut := rfl
@[simp] theorem respond_ibuf (r : Response) (s : State) : (respond r s).ibuf = s.ibuf := rfl
@[simp] theorem respond_obuf (r : Response) (s : State) : (respond r s).obuf = s.obuf := rfl
@[simp] theorem respond_pbuf (r : Response) (s : State) : (respond r s).pbuf = s.pbuf := rfl
@[simp] theorem respond_rst (r : Response) (s : State) : (respond r s).rst = s.rst := rfl
@[simp] theorem respond_draws (r : Response) (s : State) : (respond r s).draws = s.draws := rfl
@[simp] theorem respond_host (r : Response) (s : State) : (respond r s).host = s.host := rfl
@[simp] theorem respond_turns (r : Response) (s : State) : (respond r s).turns = s.turns := rfl
@[simp] theorem respond_responses (r : Response) (s : State) : (respond r s).responses = s.responses ++ [r] := rfl

@[simp] theorem setHost_ovr (p : List HostOp) (s : State) : (setHost p s).ovr = s.ovr := rfl
@[simp] theorem setHost_err (p : List HostOp) (s : State) : (setHost p s).err = s.err := rfl
@[simp] theorem setHost_lastOp (p : List HostOp) (s : State) : (setHost p s).lastOp = s.lastOp := rfl
@[simp] theorem setHost_pendValid (p : List HostOp) (s : State) : (setHost p s).pendValid = s.pendValid := rfl
@[simp] theorem setHost_pendCmd (p : List HostOp) (s : State) : (setHost p s).pendCmd = s.pendCmd := rfl
@[simp] theorem setHost_errInfo (p : List HostOp) (s : State) : (setHost p s).errInfo = s.errInfo := rfl
@[simp] theorem setHost_caps (p : List HostOp) (s : State) : (setHost p s).caps = s.caps := rfl
@[simp] theorem setHost_ctIn (p : List HostOp) (s : State) : (setHost p s).ctIn = s.ctIn := rfl
@[simp] theorem setHost_inLen (p : List HostOp) (s : State) : (setHost p s).inLen = s.inLen := rfl
@[simp] theorem setHost_typeReg (p : List HostOp) (s : State) : (setHost p s).typeReg = s.typeReg := rfl
@[simp] theorem setHost_typeValid (p : List HostOp) (s : State) : (setHost p s).typeValid = s.typeValid := rfl
@[simp] theorem setHost_chType (p : List HostOp) (s : State) : (setHost p s).chType = s.chType := rfl
@[simp] theorem setHost_chValid (p : List HostOp) (s : State) : (setHost p s).chValid = s.chValid := rfl
@[simp] theorem setHost_chLength (p : List HostOp) (s : State) : (setHost p s).chLength = s.chLength := rfl
@[simp] theorem setHost_chCrc (p : List HostOp) (s : State) : (setHost p s).chCrc = s.chCrc := rfl
@[simp] theorem setHost_outLen (p : List HostOp) (s : State) : (setHost p s).outLen = s.outLen := rfl
@[simp] theorem setHost_consumed (p : List HostOp) (s : State) : (setHost p s).consumed = s.consumed := rfl
@[simp] theorem setHost_crcOut (p : List HostOp) (s : State) : (setHost p s).crcOut = s.crcOut := rfl
@[simp] theorem setHost_ibuf (p : List HostOp) (s : State) : (setHost p s).ibuf = s.ibuf := rfl
@[simp] theorem setHost_obuf (p : List HostOp) (s : State) : (setHost p s).obuf = s.obuf := rfl
@[simp] theorem setHost_pbuf (p : List HostOp) (s : State) : (setHost p s).pbuf = s.pbuf := rfl
@[simp] theorem setHost_rst (p : List HostOp) (s : State) : (setHost p s).rst = s.rst := rfl
@[simp] theorem setHost_draws (p : List HostOp) (s : State) : (setHost p s).draws = s.draws := rfl
@[simp] theorem setHost_host (p : List HostOp) (s : State) : (setHost p s).host = p := rfl
@[simp] theorem setHost_turns (p : List HostOp) (s : State) : (setHost p s).turns = s.turns := rfl
@[simp] theorem setHost_responses (p : List HostOp) (s : State) : (setHost p s).responses = s.responses := rfl

@[simp] theorem dropTurn_ovr (s : State) : (dropTurn s).ovr = s.ovr := rfl
@[simp] theorem dropTurn_err (s : State) : (dropTurn s).err = s.err := rfl
@[simp] theorem dropTurn_lastOp (s : State) : (dropTurn s).lastOp = s.lastOp := rfl
@[simp] theorem dropTurn_pendValid (s : State) : (dropTurn s).pendValid = s.pendValid := rfl
@[simp] theorem dropTurn_pendCmd (s : State) : (dropTurn s).pendCmd = s.pendCmd := rfl
@[simp] theorem dropTurn_errInfo (s : State) : (dropTurn s).errInfo = s.errInfo := rfl
@[simp] theorem dropTurn_caps (s : State) : (dropTurn s).caps = s.caps := rfl
@[simp] theorem dropTurn_ctIn (s : State) : (dropTurn s).ctIn = s.ctIn := rfl
@[simp] theorem dropTurn_inLen (s : State) : (dropTurn s).inLen = s.inLen := rfl
@[simp] theorem dropTurn_typeReg (s : State) : (dropTurn s).typeReg = s.typeReg := rfl
@[simp] theorem dropTurn_typeValid (s : State) : (dropTurn s).typeValid = s.typeValid := rfl
@[simp] theorem dropTurn_chType (s : State) : (dropTurn s).chType = s.chType := rfl
@[simp] theorem dropTurn_chValid (s : State) : (dropTurn s).chValid = s.chValid := rfl
@[simp] theorem dropTurn_chLength (s : State) : (dropTurn s).chLength = s.chLength := rfl
@[simp] theorem dropTurn_chCrc (s : State) : (dropTurn s).chCrc = s.chCrc := rfl
@[simp] theorem dropTurn_outLen (s : State) : (dropTurn s).outLen = s.outLen := rfl
@[simp] theorem dropTurn_consumed (s : State) : (dropTurn s).consumed = s.consumed := rfl
@[simp] theorem dropTurn_crcOut (s : State) : (dropTurn s).crcOut = s.crcOut := rfl
@[simp] theorem dropTurn_ibuf (s : State) : (dropTurn s).ibuf = s.ibuf := rfl
@[simp] theorem dropTurn_obuf (s : State) : (dropTurn s).obuf = s.obuf := rfl
@[simp] theorem dropTurn_pbuf (s : State) : (dropTurn s).pbuf = s.pbuf := rfl
@[simp] theorem dropTurn_rst (s : State) : (dropTurn s).rst = s.rst := rfl
@[simp] theorem dropTurn_draws (s : State) : (dropTurn s).draws = s.draws := rfl
@[simp] theorem dropTurn_host (s : State) : (dropTurn s).host = s.host := rfl
@[simp] theorem dropTurn_turns (s : State) : (dropTurn s).turns = s.turns.tail := rfl
@[simp] theorem dropTurn_responses (s : State) : (dropTurn s).responses = s.responses := rfl

@[simp] theorem assertReset_ovr (s : State) : (assertReset s).ovr = s.ovr := rfl
@[simp] theorem assertReset_err (s : State) : (assertReset s).err = s.err := rfl
@[simp] theorem assertReset_lastOp (s : State) : (assertReset s).lastOp = s.lastOp := rfl
@[simp] theorem assertReset_pendValid (s : State) : (assertReset s).pendValid = false := rfl
@[simp] theorem assertReset_pendCmd (s : State) : (assertReset s).pendCmd = s.pendCmd := rfl
@[simp] theorem assertReset_errInfo (s : State) : (assertReset s).errInfo = s.errInfo := rfl
@[simp] theorem assertReset_caps (s : State) : (assertReset s).caps = s.caps := rfl
@[simp] theorem assertReset_ctIn (s : State) : (assertReset s).ctIn = s.ctIn := rfl
@[simp] theorem assertReset_inLen (s : State) : (assertReset s).inLen = s.inLen := rfl
@[simp] theorem assertReset_typeReg (s : State) : (assertReset s).typeReg = s.typeReg := rfl
@[simp] theorem assertReset_typeValid (s : State) : (assertReset s).typeValid = s.typeValid := rfl
@[simp] theorem assertReset_chType (s : State) : (assertReset s).chType = s.chType := rfl
@[simp] theorem assertReset_chValid (s : State) : (assertReset s).chValid = s.chValid := rfl
@[simp] theorem assertReset_chLength (s : State) : (assertReset s).chLength = s.chLength := rfl
@[simp] theorem assertReset_chCrc (s : State) : (assertReset s).chCrc = s.chCrc := rfl
@[simp] theorem assertReset_outLen (s : State) : (assertReset s).outLen = s.outLen := rfl
@[simp] theorem assertReset_consumed (s : State) : (assertReset s).consumed = s.consumed := rfl
@[simp] theorem assertReset_crcOut (s : State) : (assertReset s).crcOut = s.crcOut := rfl
@[simp] theorem assertReset_ibuf (s : State) : (assertReset s).ibuf = s.ibuf := rfl
@[simp] theorem assertReset_obuf (s : State) : (assertReset s).obuf = s.obuf := rfl
@[simp] theorem assertReset_pbuf (s : State) : (assertReset s).pbuf = s.pbuf := rfl
@[simp] theorem assertReset_rst (s : State) : (assertReset s).rst = .low false := rfl
@[simp] theorem assertReset_draws (s : State) : (assertReset s).draws = s.draws := rfl
@[simp] theorem assertReset_host (s : State) : (assertReset s).host = s.host := rfl
@[simp] theorem assertReset_turns (s : State) : (assertReset s).turns = s.turns := rfl
@[simp] theorem assertReset_responses (s : State) : (assertReset s).responses = s.responses := rfl

@[simp] theorem noteEdge_ovr (s : State) : (noteEdge s).ovr = s.ovr := rfl
@[simp] theorem noteEdge_err (s : State) : (noteEdge s).err = s.err := rfl
@[simp] theorem noteEdge_lastOp (s : State) : (noteEdge s).lastOp = s.lastOp := rfl
@[simp] theorem noteEdge_pendValid (s : State) : (noteEdge s).pendValid = s.pendValid := rfl
@[simp] theorem noteEdge_pendCmd (s : State) : (noteEdge s).pendCmd = s.pendCmd := rfl
@[simp] theorem noteEdge_errInfo (s : State) : (noteEdge s).errInfo = s.errInfo := rfl
@[simp] theorem noteEdge_caps (s : State) : (noteEdge s).caps = s.caps := rfl
@[simp] theorem noteEdge_ctIn (s : State) : (noteEdge s).ctIn = s.ctIn := rfl
@[simp] theorem noteEdge_inLen (s : State) : (noteEdge s).inLen = s.inLen := rfl
@[simp] theorem noteEdge_typeReg (s : State) : (noteEdge s).typeReg = s.typeReg := rfl
@[simp] theorem noteEdge_typeValid (s : State) : (noteEdge s).typeValid = s.typeValid := rfl
@[simp] theorem noteEdge_chType (s : State) : (noteEdge s).chType = s.chType := rfl
@[simp] theorem noteEdge_chValid (s : State) : (noteEdge s).chValid = s.chValid := rfl
@[simp] theorem noteEdge_chLength (s : State) : (noteEdge s).chLength = s.chLength := rfl
@[simp] theorem noteEdge_chCrc (s : State) : (noteEdge s).chCrc = s.chCrc := rfl
@[simp] theorem noteEdge_outLen (s : State) : (noteEdge s).outLen = s.outLen := rfl
@[simp] theorem noteEdge_consumed (s : State) : (noteEdge s).consumed = s.consumed := rfl
@[simp] theorem noteEdge_crcOut (s : State) : (noteEdge s).crcOut = s.crcOut := rfl
@[simp] theorem noteEdge_ibuf (s : State) : (noteEdge s).ibuf = s.ibuf := rfl
@[simp] theorem noteEdge_obuf (s : State) : (noteEdge s).obuf = s.obuf := rfl
@[simp] theorem noteEdge_pbuf (s : State) : (noteEdge s).pbuf = s.pbuf := rfl
@[simp] theorem noteEdge_rst (s : State) : (noteEdge s).rst = (match s.rst with | .high => .high | .low _ => .low true) := rfl
@[simp] theorem noteEdge_draws (s : State) : (noteEdge s).draws = s.draws := rfl
@[simp] theorem noteEdge_host (s : State) : (noteEdge s).host = s.host := rfl
@[simp] theorem noteEdge_turns (s : State) : (noteEdge s).turns = s.turns := rfl
@[simp] theorem noteEdge_responses (s : State) : (noteEdge s).responses = s.responses := rfl

@[simp] theorem releaseReset_ovr (s : State) : (releaseReset s).ovr = false := rfl
@[simp] theorem releaseReset_err (s : State) : (releaseReset s).err = .ok := rfl
@[simp] theorem releaseReset_lastOp (s : State) : (releaseReset s).lastOp = 0 := rfl
@[simp] theorem releaseReset_pendValid (s : State) : (releaseReset s).pendValid = false := rfl
@[simp] theorem releaseReset_pendCmd (s : State) : (releaseReset s).pendCmd = 0 := rfl
@[simp] theorem releaseReset_errInfo (s : State) : (releaseReset s).errInfo = 0 := rfl
@[simp] theorem releaseReset_caps (s : State) : (releaseReset s).caps = s.caps := rfl
@[simp] theorem releaseReset_ctIn (s : State) : (releaseReset s).ctIn = 0 := rfl
@[simp] theorem releaseReset_inLen (s : State) : (releaseReset s).inLen = 0 := rfl
@[simp] theorem releaseReset_typeReg (s : State) : (releaseReset s).typeReg = 0 := rfl
@[simp] theorem releaseReset_typeValid (s : State) : (releaseReset s).typeValid = false := rfl
@[simp] theorem releaseReset_chType (s : State) : (releaseReset s).chType = 0 := rfl
@[simp] theorem releaseReset_chValid (s : State) : (releaseReset s).chValid = false := rfl
@[simp] theorem releaseReset_chLength (s : State) : (releaseReset s).chLength = 0 := rfl
@[simp] theorem releaseReset_chCrc (s : State) : (releaseReset s).chCrc = 0 := rfl
@[simp] theorem releaseReset_outLen (s : State) : (releaseReset s).outLen = 0 := rfl
@[simp] theorem releaseReset_consumed (s : State) : (releaseReset s).consumed = 0 := rfl
@[simp] theorem releaseReset_crcOut (s : State) : (releaseReset s).crcOut = 0 := rfl
@[simp] theorem releaseReset_ibuf (s : State) : (releaseReset s).ibuf = [] := rfl
@[simp] theorem releaseReset_obuf (s : State) : (releaseReset s).obuf = [] := rfl
@[simp] theorem releaseReset_pbuf (s : State) : (releaseReset s).pbuf = [] := rfl
@[simp] theorem releaseReset_rst (s : State) : (releaseReset s).rst = .high := rfl
@[simp] theorem releaseReset_draws (s : State) : (releaseReset s).draws = s.draws + 1 := rfl
@[simp] theorem releaseReset_host (s : State) : (releaseReset s).host = s.host := rfl
@[simp] theorem releaseReset_turns (s : State) : (releaseReset s).turns = s.turns := rfl
@[simp] theorem releaseReset_responses (s : State) : (releaseReset s).responses = s.responses := rfl

end Sys2Proof.Machine
end

