-- ==== Sys2Proof/Laws/Memory.lean ====
section
/-! SUPPORT. The laws of a buffer's memory: a read after a write, that a write leaves every other
offset alone, and that the canonical form is kept and is canonical. -/

namespace Sys2Proof.Machine

theorem lookup_append (m m' : Memory) (a : Nat) :
    Memory.lookup (m ++ m') a = (Memory.lookup m a).or (Memory.lookup m' a) := by
  induction m with
  | nil => simp [Memory.lookup]
  | cons c m ih => by_cases h : c.1 = a <;> simp [Memory.lookup, h, ih]

theorem lookup_filter (p : Nat → Bool) (m : Memory) (a : Nat) :
    Memory.lookup (m.filter (fun c => p c.1)) a = if p a then Memory.lookup m a else none := by
  induction m with
  | nil => simp [Memory.lookup]
  | cons c m ih =>
    by_cases h : c.1 = a
    · subst h
      by_cases hp : p c.1 <;> simp [Memory.lookup, hp, ih]
    · by_cases hp : p c.1 <;> simp [Memory.lookup, h, hp, ih]

theorem lookup_cellsAt (bs : List Byte) (k a : Nat) :
    Memory.lookup (cellsAt k bs) a = if k ≤ a then bs[a - k]? else none := by
  induction bs generalizing k with
  | nil => simp [cellsAt, Memory.lookup]
  | cons b bs ih =>
    by_cases h : k = a
    · simp [cellsAt, Memory.lookup, h]
    · by_cases hk : k ≤ a
      · obtain ⟨d, rfl⟩ : ∃ d, a = k + 1 + d := ⟨a - k - 1, by omega⟩
        simp [cellsAt, Memory.lookup, ih, show k + 1 + d - k = d + 1 by omega, show k ≤ k + 1 + d by omega,
          show k ≠ k + 1 + d by omega]
      · simp [cellsAt, Memory.lookup, h, ih, hk, show ¬ k + 1 ≤ a by omega]

/-- A read after a write: the bytes written where they were written, everything else as before. -/
theorem lookup_store (m : Memory) (k : Nat) (bs : List Byte) (a : Nat) :
    Memory.lookup (Memory.store m k bs) a =
      if k ≤ a ∧ a < k + bs.length then bs[a - k]? else Memory.lookup m a := by
  rw [Memory.store, lookup_append, lookup_append, lookup_cellsAt,
    lookup_filter (fun x => decide (x < k)), lookup_filter (fun x => decide (k + bs.length ≤ x))]
  by_cases h1 : a < k
  · simp [h1, show ¬ k ≤ a by omega, show ¬ k + bs.length ≤ a by omega]
  · by_cases h2 : a < k + bs.length
    · have h3 : a - k < bs.length := by omega
      simp [h1, h2, show k ≤ a by omega, List.getElem?_eq_getElem h3]
    · have h3 : bs.length ≤ a - k := by omega
      simp [h1, h2, show k ≤ a by omega, show k + bs.length ≤ a by omega,
        List.getElem?_eq_none h3]

theorem lookup_store_outside (m : Memory) (k : Nat) (bs : List Byte) (a : Nat)
    (h : a < k ∨ k + bs.length ≤ a) :
    Memory.lookup (Memory.store m k bs) a = Memory.lookup m a := by
  rw [lookup_store, if_neg (by omega)]

theorem lookup_store_inside (m : Memory) (k : Nat) (bs : List Byte) (i : Nat)
    (h : i < bs.length) :
    Memory.lookup (Memory.store m k bs) (k + i) = some bs[i] := by
  rw [lookup_store, if_pos (by omega)]
  simp [List.getElem?_eq_getElem h]

/-! ### The canonical form -/

theorem risingFrom_mono {lo lo' size : Nat} {m : Memory} (hlo : lo' ≤ lo)
    (h : Memory.risingFrom lo size m = true) : Memory.risingFrom lo' size m = true := by
  cases m with
  | nil => rfl
  | cons c m =>
    simp only [Memory.risingFrom, Bool.and_eq_true, decide_eq_true_eq] at h ⊢
    exact ⟨⟨by omega, h.1.2⟩, h.2⟩

theorem risingFrom_below {lo size k : Nat} {m : Memory}
    (h : Memory.risingFrom lo size m = true) :
    Memory.risingFrom lo k (m.filter (fun c => decide (c.1 < k))) = true := by
  induction m generalizing lo with
  | nil => rfl
  | cons c m ih =>
    simp only [Memory.risingFrom, Bool.and_eq_true, decide_eq_true_eq] at h
    by_cases hc : c.1 < k
    · simp [hc, Memory.risingFrom, h.1.1, ih h.2]
    · simpa [hc] using risingFrom_mono (by omega) (ih h.2)

theorem risingFrom_above {lo size k : Nat} {m : Memory}
    (h : Memory.risingFrom lo size m = true) :
    Memory.risingFrom k size (m.filter (fun c => decide (k ≤ c.1))) = true := by
  induction m generalizing lo k with
  | nil => rfl
  | cons c m ih =>
    simp only [Memory.risingFrom, Bool.and_eq_true, decide_eq_true_eq] at h
    by_cases hc : k ≤ c.1
    · have hm : m.filter (fun d => decide (k ≤ d.1)) =
          (m.filter (fun d => decide (c.1 + 1 ≤ d.1))) := by
        have all : ∀ {lo size : Nat} {m : Memory}, Memory.risingFrom lo size m = true →
            ∀ d ∈ m, lo ≤ d.1 := by
          intro lo size m
          induction m generalizing lo with
          | nil => simp
          | cons e m ih =>
            intro he d hd
            simp only [Memory.risingFrom, Bool.and_eq_true, decide_eq_true_eq] at he
            rcases List.mem_cons.1 hd with rfl | hd
            · exact he.1.1
            · have := ih he.2 d hd; omega
        apply List.filter_congr
        intro d hd
        have := all h.2 d hd
        simp; omega
      simp only [hc, List.filter_cons, decide_true, if_true, Memory.risingFrom, h.1.2,
        Bool.and_true, Bool.true_and]
      rw [hm]; exact ih h.2
    · simpa [hc] using ih h.2

theorem risingFrom_cellsAt (k : Nat) (bs : List Byte) :
    Memory.risingFrom k (k + bs.length) (cellsAt k bs) = true := by
  induction bs generalizing k with
  | nil => rfl
  | cons b bs ih =>
    have := ih (k + 1)
    simp only [cellsAt, Memory.risingFrom, List.length_cons, Bool.and_eq_true, decide_eq_true_eq]
    refine ⟨⟨Nat.le_refl _, by omega⟩, ?_⟩
    rwa [show k + (bs.length + 1) = k + 1 + bs.length by omega]

theorem risingFrom_append {lo mid size : Nat} {m m' : Memory} (hlm : lo ≤ mid) (hms : mid ≤ size)
    (h : Memory.risingFrom lo mid m = true) (h' : Memory.risingFrom mid size m' = true) :
    Memory.risingFrom lo size (m ++ m') = true := by
  induction m generalizing lo with
  | nil => exact risingFrom_mono hlm h'
  | cons c m ih =>
    simp only [Memory.risingFrom, Bool.and_eq_true, decide_eq_true_eq, List.cons_append] at h ⊢
    exact ⟨⟨h.1.1, by omega⟩, ih (by omega) h.2⟩

/-- A store inside the buffer keeps the canonical form. -/
theorem store_wf {size k : Nat} {m : Memory} {bs : List Byte} (hm : Memory.wf size m = true)
    (hk : k + bs.length ≤ size) : Memory.wf size (Memory.store m k bs) = true := by
  have h1 := risingFrom_append (Nat.zero_le k) (by omega) (risingFrom_below (k := k) hm)
    (risingFrom_cellsAt k bs)
  exact risingFrom_append (Nat.zero_le _) hk h1 (risingFrom_above hm)

theorem empty_wf (size : Nat) : Memory.wf size [] = true := rfl

theorem lookup_below {lo size a : Nat} {m : Memory} (h : Memory.risingFrom lo size m = true)
    (ha : a < lo) : Memory.lookup m a = none := by
  induction m generalizing lo with
  | nil => rfl
  | cons c m ih =>
    simp only [Memory.risingFrom, Bool.and_eq_true, decide_eq_true_eq] at h
    rw [Memory.lookup, if_neg (by omega)]
    exact ih h.2 (by omega)

/-- The form is canonical: memories that hold the same bytes are equal data. -/
theorem memory_ext {lo size size' : Nat} {m m' : Memory}
    (h : Memory.risingFrom lo size m = true) (h' : Memory.risingFrom lo size' m' = true)
    (heq : ∀ a, Memory.lookup m a = Memory.lookup m' a) : m = m' := by
  induction m generalizing lo m' with
  | nil =>
    cases m' with
    | nil => rfl
    | cons c m' => simpa [Memory.lookup] using heq c.1
  | cons c m ih =>
    cases m' with
    | nil => simpa [Memory.lookup] using heq c.1
    | cons c' m' =>
      simp only [Memory.risingFrom, Bool.and_eq_true, decide_eq_true_eq] at h h'
      have hk : c.1 = c'.1 := by
        by_contra hne
        rcases Nat.lt_or_gt_of_ne hne with hlt | hlt
        · have := heq c.1
          rw [Memory.lookup, if_pos rfl, Memory.lookup, if_neg (by omega),
            lookup_below h'.2 (by omega)] at this
          cases this
        · have := heq c'.1
          rw [Memory.lookup, if_neg (by omega), lookup_below h.2 (by omega), Memory.lookup,
            if_pos rfl] at this
          cases this
      have hv : c.2 = c'.2 := by simpa [Memory.lookup, hk] using heq c.1
      have hc : c = c' := Prod.ext hk hv
      have hm : m = m' := by
        refine ih h.2 (hc ▸ h'.2) fun a => ?_
        by_cases ha : c.1 = a
        · rw [lookup_below h.2 (by omega), lookup_below h'.2 (by omega)]
        · simpa [Memory.lookup, ha, hk ▸ ha] using heq a
      rw [hc, hm]

/-! ### Reading bytes -/

@[simp] theorem readBytes_length (s : State) (b : Buffer) (k n : Nat) :
    (readBytes s b k n).length = n := by
  induction n generalizing k with
  | zero => rfl
  | succ n ih => simp [readBytes, ih]

theorem readBytes_getElem (s : State) (b : Buffer) (k n i : Nat) (h : i < n) :
    (readBytes s b k n)[i]'(by simpa using h) = readByte s b (k + i) := by
  induction n generalizing k i with
  | zero => omega
  | succ n ih =>
    cases i with
    | zero => simp [readBytes]
    | succ i => simpa [readBytes, Nat.add_assoc, Nat.add_comm 1] using ih (k + 1) i (by omega)

/-- Two states whose bytes agree on a range read the same bytes there. -/
theorem readBytes_congr {s t : State} {b c : Buffer} {k j n : Nat}
    (h : ∀ i, i < n → readByte s b (k + i) = readByte t c (j + i)) :
    readBytes s b k n = readBytes t c j n := by
  refine List.ext_getElem (by simp) fun i h1 _ => ?_
  rw [readBytes_length] at h1
  rw [readBytes_getElem _ _ _ _ _ h1, readBytes_getElem _ _ _ _ _ h1]
  exact h i h1

theorem readBytes_append (s : State) (b : Buffer) (k n n' : Nat) :
    readBytes s b k (n + n') = readBytes s b k n ++ readBytes s b (k + n) n' := by
  induction n generalizing k with
  | zero => simp [readBytes]
  | succ n ih =>
    rw [Nat.add_right_comm, readBytes, ih, readBytes, show k + 1 + n = k + (n + 1) by omega]
    rfl

/-- Reading where bytes have just been stored gives them. -/
theorem readBytes_of_store {s : State} {b : Buffer} {m : Memory} {bs : List Byte}
    (h : bufferCells s b = Memory.store m 0 bs) : readBytes s b 0 bs.length = bs := by
  refine List.ext_getElem (by simp) fun i h1 h2 => ?_
  rw [readBytes_length] at h1
  rw [readBytes_getElem _ _ _ _ _ h1, readByte, h, lookup_store_inside _ _ _ _ h1]
  rfl

end Sys2Proof.Machine
end

