-- ==== Sys2Proof/Laws/Ops.lean ====
section
/-! SUPPORT. Once for each shared operation, everything it can do: byte packing, the alphabetic
check, the six commands, the bus, the host's turn and the step. -/

namespace Sys2Proof.Machine

/-! ### Packing (R14) -/

@[simp] theorem bytesBE32_length (v : Word) : (bytesBE32 v).length = 4 := rfl

@[simp] theorem bytesBE32_be32 (a b c d : Byte) : bytesBE32 (be32 a b c d) = [a, b, c, d] := by
  simp only [bytesBE32, be32, List.cons.injEq, and_true]
  refine ⟨?_, ?_, ?_, ?_⟩ <;>
    · apply BitVec.eq_of_getLsbD_eq
      intro i hi
      simp only [BitVec.getLsbD_extractLsb', BitVec.getLsbD_append, hi, decide_true, Bool.true_and]
      repeat' split
      all_goals first | omega | (congr 1; omega)

theorem be32_bytesBE32 (v : Word) :
    be32 (v.extractLsb' 24 8) (v.extractLsb' 16 8) (v.extractLsb' 8 8) (v.extractLsb' 0 8) = v := by
  apply BitVec.eq_of_getLsbD_eq
  intro i hi
  unfold be32
  rw [BitVec.getLsbD_append, BitVec.getLsbD_append, BitVec.getLsbD_append]
  simp only [BitVec.getLsbD_extractLsb']
  repeat' split
  all_goals
    rw [decide_eq_true (by omega), Bool.true_and]
    congr 1
    omega

/-- The packing loses nothing: words with the same four bytes are equal. -/
theorem bytesBE32_injective {v w : Word} (h : bytesBE32 v = bytesBE32 w) : v = w := by
  simp only [bytesBE32, List.cons.injEq, and_true] at h
  rw [← be32_bytesBE32 v, ← be32_bytesBE32 w, h.1, h.2.1, h.2.2.1, h.2.2.2]

/-- The bytes of a field read from a buffer are the buffer's bytes there (R90). -/
theorem bytesBE32_readWord (s : State) (b : Buffer) (k : Nat) :
    bytesBE32 (readWord s b k) = readBytes s b k 4 := by
  simp [readWord, readBytes]

/-! ### The alphabetic check (R140) -/

theorem firstNonAlpha_none {c : List Byte} (h : firstNonAlpha c = none) : c.all isAlpha = true := by
  simpa [firstNonAlpha, List.findIdx?_eq_none_iff] using h

theorem firstNonAlpha_eq_none_iff (c : List Byte) :
    firstNonAlpha c = none ↔ c.all isAlpha = true := by
  simp [firstNonAlpha, List.findIdx?_eq_none_iff]

theorem firstNonAlpha_lt {c : List Byte} {i : Nat} (h : firstNonAlpha c = some i) :
    i < c.length := by
  rw [firstNonAlpha, List.findIdx?_eq_some_iff_getElem] at h
  exact h.1

/-! ### The length checks (R262) -/

theorem overIbuf_eq_true_iff (s : State) :
    overIbuf s = true ↔ bufferSize s .ibuf < s.inLen.toNat := by simp [overIbuf, inCount]

theorem overIbuf_eq_false_iff (s : State) :
    overIbuf s = false ↔ s.inLen.toNat ≤ bufferSize s .ibuf := by simp [overIbuf, inCount]

theorem overPayload_eq_true_iff (s : State) :
    overPayload s = true ↔ maxPayload s < s.inLen.toNat := by simp [overPayload, inCount]

theorem overPayload_eq_false_iff (s : State) :
    overPayload s = false ↔ s.inLen.toNat ≤ maxPayload s := by simp [overPayload, inCount]

/-! ### The commands: everything a commit can do (R266) -/

/-- What the shared type construction can do. -/
theorem constructType_cases (t : Word) (s : State) :
    (∃ i, i < 4 ∧ firstNonAlpha (bytesBE32 t) = some i ∧
        constructType t s = raise .notAlphabetic (BitVec.ofNat 32 i) s) ∨
      (alphaCode t = true ∧ constructType t s = succeed (setType t s)) := by
  unfold constructType
  cases h : firstNonAlpha (bytesBE32 t) with
  | some i => exact .inl ⟨i, by simpa using firstNonAlpha_lt h, rfl, rfl⟩
  | none => exact .inr ⟨firstNonAlpha_none h, rfl⟩

/-- The success commit of each command, with what its checks have established. -/
def succeedsWith (i : Instr) (s t : State) : Prop :=
  match i with
  | .ctFromBytes => alphaCode s.ctIn = true ∧ t = succeed (setType s.ctIn s)
  | .ctFromText =>
    overIbuf s = false ∧ 4 ≤ inCount s ∧ alphaCode (textCode s) = true ∧
      t = succeed (setType (textCode s) s)
  | .crcBuf => overIbuf s = false ∧ t = succeed (setCrcOut (crc32 (inputBytes s)) s)
  | .chunkNew =>
    s.typeValid = true ∧ overPayload s = false ∧
      t = succeed (setChunk s.typeReg s.inLen (chunkCrc (inputBytes s) s.typeReg) (inputBytes s) s)
  | .chunkSerialize =>
    s.chValid = true ∧
      t = succeed (setOutput (frame s.chLength s.chType (chunkData s) s.chCrc) (12 + s.chLength) s)
  | .chunkParse =>
    overIbuf s = false ∧ 12 + (frameLength s).toNat ≤ inCount s ∧
      alphaCode (frameType s) = true ∧
      chunkCrc (framePayload s) (frameType s) = frameCrc s ∧
      t = succeed (setConsumed (12 + frameLength s)
        (setChunk (frameType s) (frameLength s) (frameCrc s) (framePayload s) s))

/-- Everything a command can do: an error commit with a code the command may raise, or its success
commit. No command stops. -/
theorem exec_cases (i : Instr) (s : State) :
    ∃ t, exec i s = .next t ∧
      ((∃ e info, e ≠ .ok ∧ e ≠ .decodeError ∧ e ≠ .illegalCommand ∧ t = raise e info s) ∨
        succeedsWith i s t) := by
  cases i with
  | ctFromBytes =>
    refine ⟨_, rfl, ?_⟩
    obtain ⟨i, -, -, h⟩ | ⟨ha, h⟩ := constructType_cases s.ctIn s
    · exact .inl ⟨_, _, by decide, by decide, by decide, h⟩
    · exact .inr ⟨ha, h⟩
  | ctFromText =>
    simp only [exec, execCtFromText]
    split
    · exact ⟨_, rfl, .inl ⟨_, _, by decide, by decide, by decide, rfl⟩⟩
    split
    · exact ⟨_, rfl, .inl ⟨_, _, by decide, by decide, by decide, rfl⟩⟩
    · refine ⟨_, rfl, ?_⟩
      obtain ⟨i, -, -, h⟩ | ⟨ha, h⟩ := constructType_cases (textCode s) s
      · exact .inl ⟨_, _, by decide, by decide, by decide, h⟩
      · exact .inr ⟨by simp_all, by omega, ha, h⟩
  | crcBuf =>
    simp only [exec, execCrcBuf]
    split
    · exact ⟨_, rfl, .inl ⟨_, _, by decide, by decide, by decide, rfl⟩⟩
    · exact ⟨_, rfl, .inr ⟨by simp_all, rfl⟩⟩
  | chunkNew =>
    simp only [exec, execChunkNew]
    split
    · exact ⟨_, rfl, .inl ⟨_, _, by decide, by decide, by decide, rfl⟩⟩
    split
    · exact ⟨_, rfl, .inl ⟨_, _, by decide, by decide, by decide, rfl⟩⟩
    · exact ⟨_, rfl, .inr ⟨by simp_all, by simp_all, rfl⟩⟩
  | chunkSerialize =>
    simp only [exec, execChunkSerialize]
    split
    · exact ⟨_, rfl, .inl ⟨_, _, by decide, by decide, by decide, rfl⟩⟩
    · exact ⟨_, rfl, .inr ⟨by simp_all, rfl⟩⟩
  | chunkParse =>
    simp only [exec, execChunkParse]
    split
    · exact ⟨_, rfl, .inl ⟨_, _, by decide, by decide, by decide, rfl⟩⟩
    split
    · exact ⟨_, rfl, .inl ⟨_, _, by decide, by decide, by decide, rfl⟩⟩
    cases ha : firstNonAlpha (bytesBE32 (frameType s)) with
    | some i => exact ⟨_, rfl, .inl ⟨_, _, by decide, by decide, by decide, rfl⟩⟩
    | none =>
      simp only
      split
      · exact ⟨_, rfl, .inl ⟨_, _, by decide, by decide, by decide, rfl⟩⟩
      split
      · exact ⟨_, rfl, .inl ⟨_, _, by decide, by decide, by decide, rfl⟩⟩
      split
      · exact ⟨_, rfl, .inl ⟨_, _, by decide, by decide, by decide, rfl⟩⟩
      · rename_i hc _ _ _ hm
        exact ⟨_, rfl, .inr ⟨by simp_all, by omega, firstNonAlpha_none ha,
          by simpa using hm, rfl⟩⟩

/-- Everything the commit of the command in flight can do, legal or not. -/
theorem runPending_cases (s : State) :
    ∃ t, runPending s = .next t ∧
      ((∃ e info, e ≠ .ok ∧ e ≠ .decodeError ∧ t = raise e info s) ∨
        ∃ i, decode s.pendCmd = some i ∧ succeedsWith i s t) := by
  unfold runPending
  cases h : decode s.pendCmd with
  | none => exact ⟨_, rfl, .inl ⟨_, _, by decide, by decide, rfl⟩⟩
  | some i =>
    obtain ⟨t, ht, ⟨e, info, h1, h2, -, h3⟩ | hs⟩ := exec_cases i s
    · exact ⟨t, ht, .inl ⟨e, info, h1, h2, h3⟩⟩
    · exact ⟨t, ht, .inr ⟨i, rfl, hs⟩⟩

/-! ### The bus (R86 to R89, R295) -/

/-- Everything a register write can do. -/
theorem writeReg_cases (r : Reg) (w : Word) (s : State) :
    writeReg r w s = s ∨ (s.pendValid = true ∧ writeReg r w s = dropWrite s) ∨
      (s.pendValid = false ∧
        (writeReg r w s = accept w s ∨ writeReg r w s = setCtIn w s ∨
          writeReg r w s = setInLen w s)) := by
  cases r <;> cases h : s.pendValid <;> simp [writeReg, h]

/-- Everything a bus transaction can do to the state. -/
theorem busAccess_cases (q : Request) (s : State) :
    (busAccess q s).1 = s ∨ (s.pendValid = true ∧ (busAccess q s).1 = dropWrite s) ∨
      (s.pendValid = false ∧
        ((busAccess q s).1 = accept q.wdata s ∨ (busAccess q s).1 = setCtIn q.wdata s ∨
          (busAccess q s).1 = setInLen q.wdata s ∨
          (offsetOf q.addr < bufferSize s .ibuf ∧
            (busAccess q s).1 = setIbufByte (offsetOf q.addr) (q.wdata.extractLsb' 0 8) s))) := by
  unfold busAccess
  split
  · split
    · unfold regAccess
      split
      · exact .inl rfl
      · exact .inl rfl
      · rename_i r _ _
        rcases writeReg_cases r q.wdata s with h | ⟨h1, h2⟩ | ⟨h1, h2 | h2 | h2⟩ <;> simp [*]
      · exact .inl rfl
    · exact .inl rfl
  · split
    · rename_i b _ hl
      unfold bufAccess
      split
      · exact .inl rfl
      · cases h : s.pendValid
        · simp only [bufLegal, Bool.and_eq_true, decide_eq_true_eq] at hl
          simp [hl.2]
        · simp
      · exact .inl rfl
      · exact .inl rfl
    · exact .inl rfl

/-- A read transaction changes no state (R93). -/
theorem busAccess_read (q : Request) (s : State) (h : q.kind = .read) : (busAccess q s).1 = s := by
  unfold busAccess
  split
  · split
    · unfold regAccess; rw [h]; split <;> simp_all
    · rfl
  · split
    · unfold bufAccess; rw [h]
    · rfl

/-! ### The host's turn and the step (R96) -/

/-- Everything a host turn can do: nothing, or one transaction with the host moving on. -/
theorem hostTurn_cases (s : State) :
    hostTurn s = s ∨
      (s.rst = .high ∧ ∃ q p, hostTurn s = setHost p (transact q s)) := by
  unfold hostTurn
  split
  · exact .inl rfl
  · exact .inl rfl
  · rename_i op rest hr _
    refine .inr ⟨hr, ?_⟩
    cases op with
    | bus q => exact ⟨q, _, rfl⟩
    | wait => exact ⟨_, _, rfl⟩
    | copyByte src dst => exact ⟨_, _, rfl⟩

/-- A committing edge with a command in flight and rst_n high runs that command. -/
theorem step_commit {s : State} (hn : nextTurn s = .clk true) (hp : s.pendValid = true)
    (hr : s.rst = .high) : step s = runPending (dropTurn s) := by
  have hc : commits true s = true := by rw [commits, hp, hr]; rfl
  simp only [step, hn, hc, if_true]

/-- The host's turn. -/
theorem step_host {s : State} (hn : nextTurn s = .host) : step s = .next (hostTurn (dropTurn s)) := by
  simp only [step, hn]

/-- Everything a step can do. -/
theorem step_cases {s t : State} (h : step s = .next t) :
    (nextTurn s = .host ∧ t = hostTurn (dropTurn s)) ∨
      (nextTurn s = .clk true ∧ s.pendValid = true ∧ s.rst = .high ∧
        runPending (dropTurn s) = .next t) ∨
      ((∃ c, nextTurn s = .clk c ∧ commits c s = false) ∧ t = noteEdge (dropTurn s)) ∨
      (nextTurn s = .rstFall ∧ s.rst = .high ∧ t = assertReset (dropTurn s)) ∨
      (nextTurn s = .rstRise ∧ s.rst = .low true ∧ t = releaseReset (dropTurn s)) ∨
      ((nextTurn s = .rstFall ∧ s.rst ≠ .high ∨ nextTurn s = .rstRise ∧ s.rst = .high) ∧
        t = dropTurn s) := by
  unfold step at h
  cases hn : nextTurn s with
  | host => rw [hn] at h; cases h; exact .inl ⟨rfl, rfl⟩
  | clk c =>
    rw [hn] at h
    simp only at h
    by_cases hc : commits c s = true
    · rw [if_pos hc] at h
      simp only [commits, Bool.and_eq_true, decide_eq_true_eq] at hc
      exact .inr (.inl ⟨by rw [hc.1.1], hc.1.2, hc.2, h⟩)
    · rw [if_neg hc] at h; cases h
      exact .inr (.inr (.inl ⟨⟨c, rfl, by simpa using hc⟩, rfl⟩))
  | rstFall =>
    rw [hn] at h; cases h
    cases hr : s.rst with
    | high => exact .inr (.inr (.inr (.inl ⟨rfl, rfl, by simp [resetFall, hr]⟩)))
    | low e => exact .inr (.inr (.inr (.inr (.inr ⟨.inl ⟨rfl, by simp⟩, by simp [resetFall, hr]⟩))))
  | rstRise =>
    rw [hn] at h
    simp only [resetRise, dropTurn_rst] at h
    cases hr : s.rst with
    | high =>
      rw [hr] at h; cases h
      exact .inr (.inr (.inr (.inr (.inr ⟨.inr ⟨rfl, rfl⟩, rfl⟩))))
    | low e =>
      rw [hr] at h
      cases e with
      | true => cases h; exact .inr (.inr (.inr (.inr (.inl ⟨rfl, rfl, rfl⟩))))
      | false => cases h

/-- The only step that does not answer a next state: rst_n rises after a pulse without an edge. -/
theorem step_stops {s : State} (h : ¬ ∃ t, step s = .next t) :
    nextTurn s = .rstRise ∧ s.rst = .low false ∧ step s = .fault .resetPulseTooShort := by
  cases hn : nextTurn s with
  | host => exact absurd ⟨hostTurn (dropTurn s), by simp [step, hn]⟩ h
  | rstFall => exact absurd ⟨resetFall (dropTurn s), by simp [step, hn]⟩ h
  | clk c =>
    obtain ⟨t, ht, -⟩ := runPending_cases (dropTurn s)
    by_cases hc : commits c s = true
    · exact absurd ⟨t, by simp [step, hn, hc, ht]⟩ h
    · exact absurd ⟨noteEdge (dropTurn s), by simp [step, hn, hc]⟩ h
  | rstRise =>
    cases hr : s.rst with
    | high => exact absurd ⟨dropTurn s, by simp [step, hn, resetRise, hr]⟩ h
    | low e =>
      cases e with
      | true => exact absurd ⟨releaseReset (dropTurn s), by simp [step, hn, resetRise, hr]⟩ h
      | false => exact ⟨rfl, rfl, by simp [step, hn, resetRise, hr]⟩

end Sys2Proof.Machine
end

