-- ==== Sys2Proof/Laws/Bus.lean ====
section
/-! SUPPORT. The bus, by address: what an access to a named register or to a buffer byte is. -/

namespace Sys2Proof.Machine

/-- The address of a register lies in REG, is aligned and is mapped to that register (R31, R81). -/
theorem regAddr_mapped (r : Reg) :
    windowOf (regAddr r) = none ∧ regAt (offsetOf (regAddr r)) = some r ∧
      (regAddr r).extractLsb' 0 2 = 0 := by
  cases r <;> decide

/-- An address of REG whose offset is mapped to `r` is the address of `r`. -/
theorem addr_of_regAt {a : Word} {r : Reg} (hw : windowOf a = none)
    (hr : regAt (offsetOf a) = some r) : a = regAddr r := by
  have hoff : regOffset r = offsetOf a := by simpa using List.find?_some hr
  have htop : a.extractLsb' 30 2 = 0 := by
    unfold windowOf at hw
    by_contra h
    rw [if_neg h] at hw
    repeat' (split at hw <;> try cases hw)
  apply BitVec.eq_of_toNat_eq
  have := congrArg BitVec.toNat htop
  have hz : (0 : BitVec 2).toNat = 0 := rfl
  have hlt := a.isLt
  rw [regAddr, hoff]
  simp only [BitVec.extractLsb'_toNat, offsetOf, BitVec.toNat_ofNat, hz,
    Nat.shiftRight_eq_div_pow] at this ⊢
  omega

theorem regAt_reserved {n : Nat} (h : 0x3C ≤ n) : regAt n = none := by
  simp only [regAt, allRegs, List.find?_eq_none]
  intro r hr
  cases r <;> simp [regOffset] <;> omega

/-- A size-4 read of a register (R86). -/
theorem busAccess_readReg {q : Request} {r : Reg} (hk : q.kind = .read) (hs : q.size = .four)
    (ha : q.addr = regAddr r) (s : State) : busAccess q s = (s, okayRead (readReg s r)) := by
  obtain ⟨h1, h2, h3⟩ := regAddr_mapped r
  simp only [busAccess, ha, h1, regLegal, hs, h3, decide_true, Bool.and_true, if_true, regAccess, hk,
    h2]

/-- A size-4 write to a register (R86). -/
theorem busAccess_writeReg {q : Request} {r : Reg} (hk : q.kind = .write) (hs : q.size = .four)
    (ha : q.addr = regAddr r) (s : State) : busAccess q s = (writeReg r q.wdata s, okayWrite) := by
  obtain ⟨h1, h2, h3⟩ := regAddr_mapped r
  simp only [busAccess, ha, h1, regLegal, hs, h3, decide_true, Bool.and_true, if_true, regAccess, hk,
    h2]

/-- The address `B+k` lies in the window of B at offset k (R81, R116). -/
theorem bufAddr_mapped (b : Buffer) {k : Nat} (hk : k < 2 ^ 30) :
    windowOf (bufAddr b k) = some b ∧ offsetOf (bufAddr b k) = k := by
  have key (v : Nat) (hv : v < 4) :
      ((BitVec.ofNat 32 (v * 2 ^ 30) + BitVec.ofNat 32 k).extractLsb' 30 2 = BitVec.ofNat 2 v) ∧
        ((BitVec.ofNat 32 (v * 2 ^ 30) + BitVec.ofNat 32 k).extractLsb' 0 30).toNat = k := by
    have hn : (BitVec.ofNat 32 (v * 2 ^ 30) + BitVec.ofNat 32 k).toNat = v * 2 ^ 30 + k := by
      rw [BitVec.toNat_add, BitVec.toNat_ofNat, BitVec.toNat_ofNat]; omega
    refine ⟨BitVec.eq_of_toNat_eq ?_, ?_⟩
    · rw [BitVec.extractLsb'_toNat, hn, BitVec.toNat_ofNat, Nat.shiftRight_eq_div_pow]; omega
    · rw [BitVec.extractLsb'_toNat, hn, Nat.shiftRight_zero]; omega
  cases b with
  | ibuf => obtain ⟨h1, h2⟩ := key 1 (by omega); exact ⟨by
      unfold windowOf bufAddr baseOf; rw [show (0x40000000 : Word) = BitVec.ofNat 32 (1 * 2 ^ 30) from rfl, h1]
      rfl, h2⟩
  | obuf => obtain ⟨h1, h2⟩ := key 2 (by omega); exact ⟨by
      unfold windowOf bufAddr baseOf; rw [show (0x80000000 : Word) = BitVec.ofNat 32 (2 * 2 ^ 30) from rfl, h1]
      rfl, h2⟩
  | pbuf => obtain ⟨h1, h2⟩ := key 3 (by omega); exact ⟨by
      unfold windowOf bufAddr baseOf; rw [show (0xC0000000 : Word) = BitVec.ofNat 32 (3 * 2 ^ 30) from rfl, h1]
      rfl, h2⟩

/-- A size-1 read of a buffer byte below the buffer's size (R89). -/
theorem busAccess_readBuf {q : Request} {b : Buffer} {s : State} (hk : q.kind = .read)
    (hs : q.size = .one) (hw : windowOf q.addr = some b) (ho : offsetOf q.addr < bufferSize s b) :
    busAccess q s = (s, okayRead ((readByte s b (offsetOf q.addr)).zeroExtend 32)) := by
  simp only [busAccess, hw, bufLegal, hs, ho, decide_true, Bool.and_true, if_true, bufAccess, hk]

/-- A size-1 write to an IBUF byte below the buffer's size (R89). -/
theorem busAccess_writeIbuf {q : Request} {s : State} (hk : q.kind = .write)
    (hs : q.size = .one) (hw : windowOf q.addr = some .ibuf)
    (ho : offsetOf q.addr < bufferSize s .ibuf) :
    busAccess q s =
      (if s.pendValid then dropWrite s
       else setIbufByte (offsetOf q.addr) (q.wdata.extractLsb' 0 8) s, okayWrite) := by
  simp only [busAccess, hw, bufLegal, hs, ho, decide_true, Bool.and_true, if_true, bufAccess, hk]

/-! ### Everything a transaction and a host turn can do, with the request that does it -/

/-- A bus transaction changes no state, or it is one of the writes of R33, R39, R40, R89 and R295. -/
theorem busAccess_effect (q : Request) (s : State) :
    (busAccess q s).1 = s ∨
      (s.pendValid = true ∧ q.droppedWhileBusy s ∧ (busAccess q s).1 = dropWrite s) ∨
      (s.pendValid = false ∧
        ((q.writesCmd ∧ (busAccess q s).1 = accept q.wdata s) ∨
          (busAccess q s).1 = setCtIn q.wdata s ∨ (busAccess q s).1 = setInLen q.wdata s ∨
          (q.writesIbuf s (offsetOf q.addr) ∧
            (busAccess q s).1 = setIbufByte (offsetOf q.addr) (q.wdata.extractLsb' 0 8) s))) := by
  unfold busAccess
  split
  · rename_i hw
    split
    · rename_i hl
      simp only [regLegal, Bool.and_eq_true, decide_eq_true_eq] at hl
      unfold regAccess
      split
      · exact .inl rfl
      · exact .inl rfl
      · rename_i r hk hr
        have ha := addr_of_regAt hw hr
        cases r <;> cases hp : s.pendValid <;>
          simp [writeReg, hp, Request.writesCmd, Request.droppedWhileBusy, hk, hl.1, ha, regAddr,
            regOffset]
      · exact .inl rfl
    · exact .inl rfl
  · rename_i b hw
    split
    · rename_i hl
      simp only [bufLegal, Bool.and_eq_true, decide_eq_true_eq] at hl
      unfold bufAccess
      split
      · exact .inl rfl
      · rename_i hk
        have hq : q.writesIbuf s (offsetOf q.addr) := ⟨hk, hl.1, hw, rfl, hl.2⟩
        cases hp : s.pendValid
        · exact .inr (.inr ⟨rfl, .inr (.inr (.inr ⟨hq, rfl⟩))⟩)
        · exact .inr (.inl ⟨rfl, .inr ⟨_, hq⟩, rfl⟩)
      · exact .inl rfl
      · exact .inl rfl
    · exact .inl rfl

/-- A byte reads the same whatever the schedule is. -/
@[simp] theorem readByte_dropTurn (s : State) (b : Buffer) (i : Nat) :
    readByte (dropTurn s) b i = readByte s b i := by
  cases b <;> rfl

/-- A buffer has the same size whatever the schedule is. -/
@[simp] theorem bufferSize_dropTurn (s : State) (b : Buffer) :
    bufferSize (dropTurn s) b = bufferSize s b := by
  cases b <;> rfl

/-- A register reads the same whatever the schedule is. -/
@[simp] theorem readReg_dropTurn (s : State) (r : Reg) : readReg (dropTurn s) r = readReg s r := by
  cases r <;> rfl

/-- A register write does not look at the schedule, and leaves it. -/
theorem writeReg_dropTurn (r : Reg) (w : Word) (s : State) :
    writeReg r w (dropTurn s) = dropTurn (writeReg r w s) := by
  cases r <;> cases hp : s.pendValid <;> simp only [writeReg, dropTurn_pendValid, hp] <;> rfl

/-- A transaction does not look at the schedule, and leaves it. -/
theorem busAccess_dropTurn (q : Request) (s : State) :
    busAccess q (dropTurn s) = (dropTurn (busAccess q s).1, (busAccess q s).2) := by
  unfold busAccess
  cases windowOf q.addr with
  | none =>
    simp only [regAccess, readReg_dropTurn, writeReg_dropTurn]
    repeat' split
    all_goals rfl
  | some b =>
    have hl : bufLegal (dropTurn s) b q = bufLegal s b q := by
      simp only [bufLegal, bufferSize_dropTurn]
    simp only [hl]
    cases bufLegal s b q
    · rfl
    · cases hk : q.kind <;> cases b <;> cases hp : s.pendValid <;>
        simp only [bufAccess, hk, readByte_dropTurn, dropTurn_pendValid, hp] <;> rfl

/-- A host turn does nothing, performs the request at the head of the host's list, or reads (WAIT and
the first half of a COPY element). -/
theorem hostTurn_effect (s : State) :
    hostTurn s = s ∨
      (s.rst = .high ∧ ∃ q rest, s.host = .bus q :: rest ∧
        hostTurn s = setHost rest (transact q s)) ∨
      ∃ r p, hostTurn s = setHost p (respond r s) := by
  unfold hostTurn
  split
  · exact .inl rfl
  · exact .inl rfl
  · rename_i op rest hr hh
    cases op with
    | bus q => exact .inr (.inl ⟨hr, q, rest, hh, rfl⟩)
    | wait =>
      have h := busAccess_read (readReq32 (regAddr .status)) s rfl
      exact .inr (.inr ⟨_, _, by rw [hostAct, transact, h]⟩)
    | copyByte src dst =>
      have h := busAccess_read (readReq8 src) s rfl
      exact .inr (.inr ⟨_, _, by rw [hostAct, transact, h]⟩)

end Sys2Proof.Machine
end

