-- ==== Sys2Proof/Laws/Decode.lean ====
section
/-! SUPPORT. The decoder in terms of the two fields of the word. -/

namespace Sys2Proof

theorem decode_eq (w : Word) :
    decode w = if w.extractLsb' 8 24 = 0 then commandOf (w.extractLsb' 0 8) else none := rfl

/-- Each command has one OP byte, and each OP byte of R112 one command. -/
theorem commandOf_eq_some_iff (op : BitVec 8) (i : Instr) :
    commandOf op = some i ↔ op = opcodeOf i := by
  cases i <;>
    · simp only [commandOf, opcodeOf]
      constructor
      · (repeat' split) <;> simp_all
      · rintro rfl; rfl

/-- A word is its two fields. -/
theorem word_of_fields (w : Word) : w.extractLsb' 8 24 ++ w.extractLsb' 0 8 = w := by
  apply BitVec.eq_of_getLsbD_eq
  intro i hi
  rw [BitVec.getLsbD_append]
  simp only [BitVec.getLsbD_extractLsb']
  split
  · simp [*]
  · rw [decide_eq_true (by omega), Bool.true_and]; congr 1; omega

end Sys2Proof
end

