-- ==== Sys2Proof/Laws/PerInstr.lean ====
section
/-! SUPPORT. The per-instruction statements: what holds of each command as syntax. -/

/-- The encoding of a command: it is well formed, its word has RSVD = 0 and its own OP byte, and the
word decodes to it (R110, R114, R118). -/
def Sys2Proof.Laws.Encoding.Statement (i : Sys2Proof.Instr) : Prop :=
  i.wellFormed = true ∧ (Sys2Proof.fieldsOf (Sys2Proof.encode i)).wellFormed = true ∧
    (Sys2Proof.fieldsOf (Sys2Proof.encode i)).op = Sys2Proof.opcodeOf i ∧
    Sys2Proof.decode (Sys2Proof.encode i) = some i

theorem Sys2Proof.Laws.Encoding.ctFromBytes : Sys2Proof.Laws.Encoding.Statement .ctFromBytes := by
  unfold Sys2Proof.Laws.Encoding.Statement; decide

theorem Sys2Proof.Laws.Encoding.ctFromText : Sys2Proof.Laws.Encoding.Statement .ctFromText := by
  unfold Sys2Proof.Laws.Encoding.Statement; decide

theorem Sys2Proof.Laws.Encoding.crcBuf : Sys2Proof.Laws.Encoding.Statement .crcBuf := by
  unfold Sys2Proof.Laws.Encoding.Statement; decide

theorem Sys2Proof.Laws.Encoding.chunkNew : Sys2Proof.Laws.Encoding.Statement .chunkNew := by
  unfold Sys2Proof.Laws.Encoding.Statement; decide

theorem Sys2Proof.Laws.Encoding.chunkSerialize :
    Sys2Proof.Laws.Encoding.Statement .chunkSerialize := by
  unfold Sys2Proof.Laws.Encoding.Statement; decide

theorem Sys2Proof.Laws.Encoding.chunkParse : Sys2Proof.Laws.Encoding.Statement .chunkParse := by
  unfold Sys2Proof.Laws.Encoding.Statement; decide
end

