-- ==== Sys2Proof/Tests/Slice0.lean ====
section
/-! SUPPORT. Small tests. Every expected value is copied from the spec: the rule or the vector of
95_test_vectors.md is named in the test's comment. -/

open Sys2Proof Sys2Proof.Machine

namespace Sys2Proof.Tests

/-! ### Builders -/

/-- Reset, with the bytes `bs` written to IBUF from offset 0 and IN_LEN = n. -/
def loaded (bs : List Byte) (n : Word) : State :=
  { State.reset with ibuf := cellsAt 0 bs, inLen := n }

/-- The same with a current type. -/
def typed (t : Word) (s : State) : State := { s with typeReg := t, typeValid := true }

/-- The command word `w` accepted, BUSY = 1 (R292). -/
def busy (w : Word) (s : State) : State := accept w s

/-- The next state of an outcome has the property `p`. -/
def ends (o : Host.Outcome State Fault Refusal) (p : State → Bool) : Bool :=
  match o with
  | .next t => p t
  | .fault _ => false
  | .refused _ => false

/-- A word's commit, from acceptance, with STATUS and ERR_INFO as expected. -/
def commitGives (w : Nat) (s : State) (status info : Word) (p : State → Bool) : Bool :=
  ends (step (s.withFetchWord 32 w)) fun t =>
    decide (statusWord t = status) && decide (t.errInfo = info) && p t

/-- ascii("RuSt") packed. -/
def rust : Word := 0x52755374

/-- V-PARSE-1's frame. -/
def hiFrame : List Byte :=
  [0x00, 0x00, 0x00, 0x02, 0x52, 0x75, 0x53, 0x74, 0x48, 0x69, 0x33, 0x2B, 0xEA, 0xBE]

/-! ### Well-formedness: an ill-formed term for each check -/

/-- RSVD ≠ 0 is refused (R110, R115). -/
theorem test_wf_rsvd : CommandFields.wellFormed { op := 0x21, rsvd := 1 } = false := by decide
/-- OP = 0x00 is refused (R115). -/
theorem test_wf_op : CommandFields.wellFormed { op := 0x00, rsvd := 0 } = false := by decide
/-- A legal word is accepted. -/
theorem test_wf_ok : CommandFields.wellFormed { op := 0x21, rsvd := 0 } = true := by decide
/-- MAX_PAYLOAD = 0 is outside the range of R8. -/
theorem test_wf_payload_zero : Config.legalMaxPayload 0 = false := by decide
/-- 2^30 − 11 is outside the range of R8, 2^30 − 12 is its end. -/
theorem test_wf_payload_end :
    Config.legalMaxPayload (2 ^ 30 - 11) = false ∧ Config.legalMaxPayload (2 ^ 30 - 12) = true := by
  decide
/-- A buffer whose offsets do not rise is not in canonical form. -/
theorem test_wf_memory : Memory.wf 4 [(1, 0), (1, 0)] = false ∧ Memory.wf 4 [(4, 0)] = false := by
  decide

/-! ### Decoding: each word bit by bit from R110 (bits 31:8 zero, OP in bits 7:0) and R112 -/

theorem test_decode_ctFromBytes :
    decode 0b00000000000000000000000000000001 = some .ctFromBytes := by decide
theorem test_decode_ctFromText :
    decode 0b00000000000000000000000000000010 = some .ctFromText := by decide
theorem test_decode_crcBuf :
    decode 0b00000000000000000000000000010000 = some .crcBuf := by decide
theorem test_decode_chunkNew :
    decode 0b00000000000000000000000000100000 = some .chunkNew := by decide
theorem test_decode_chunkSerialize :
    decode 0b00000000000000000000000000100001 = some .chunkSerialize := by decide
theorem test_decode_chunkParse :
    decode 0b00000000000000000000000000100010 = some .chunkParse := by decide
/-- The illegal words of 95_test_vectors.md 2.7. -/
theorem test_decode_illegal :
    ([0x00000000, 0x00000003, 0x00000011, 0x00000023, 0x000000FF, 0x00000121, 0x80000022] :
      List Word).all (fun w => (decode w).isNone) = true := by decide
/-- A row of spec/opcode_table.json, through the table's numbering. -/
theorem test_decode_table :
    decodeTableWord 32 0x22 = some .chunkParse ∧ decodeTableWord 8 0x10 = some .crcBuf := by decide

/-! ### The commands, from acceptance to commit -/

/-- V-CT-7. -/
theorem test_ctFromBytes_ok :
    commitGives 0x01 { State.reset with ctIn := 0x4141417A } 0x00010000 0
      (fun t => decide (t.typeReg = 0x4141417A) && decide (propsWord t = 0x0000011F)) = true := by
  decide
/-- V-L1-2, byte 2. -/
theorem test_ctFromBytes_bad :
    commitGives 0x01 { State.reset with ctIn := 0x52753174 } 0x00010100 2
      (fun t => decide (t.typeReg = 0) && decide (propsWord t = 0)) = true := by decide
/-- V-TXT-2. -/
theorem test_ctFromText_ok :
    commitGives 0x02
      (loaded [0x52, 0x75, 0x53, 0x74, 0x20, 0x69, 0x73, 0x20, 0x67, 0x72, 0x65, 0x61, 0x74] 13)
      0x00020000 0 (fun t => decide (t.typeReg = rust) && decide (propsWord t = 0x0000011D)) =
      true := by decide
/-- V-TXT-7. -/
theorem test_ctFromText_bad :
    commitGives 0x02 (loaded [0x52, 0x75, 0x20, 0x53, 0x74] 5) 0x00020100 2
      (fun t => decide (propsWord t = 0)) = true := by decide
/-- V-CRC-2. -/
theorem test_crcBuf_ok :
    commitGives 0x10 (loaded [0x31, 0x32, 0x33, 0x34, 0x35, 0x36, 0x37, 0x38, 0x39] 9) 0x00100000 0
      (fun t => decide (t.crcOut = 0xCBF43926)) = true := by decide +kernel
/-- V-CRC-16. -/
theorem test_crcBuf_capacity :
    commitGives 0x10 (loaded [] 4109) 0x00101300 0x0000100D (fun t => decide (t.crcOut = 0)) =
      true := by decide
/-- V-NEW-1. -/
theorem test_chunkNew_ok :
    commitGives 0x20 (typed rust (loaded [0x48, 0x69] 2)) 0x00200000 0 (fun t =>
      decide (t.chType = rust) && decide (t.chLength = 2) && decide (t.chCrc = 0x332BEABE) &&
      decide (chPropsWord t = 0x0000011D) && decide (t.pbuf = [(0, 0x48), (1, 0x69)])) = true := by decide +kernel
/-- V-NEW-6. -/
theorem test_chunkNew_capacity :
    commitGives 0x20 (typed rust (loaded [] 4097)) 0x00201300 0x00001001
      (fun t => !t.chValid && decide (t.pbuf = [])) = true := by decide
/-- V-NEW-1's frame, from its chunk. -/
theorem test_chunkSerialize_ok :
    commitGives 0x21
      { State.reset with chValid := true, chType := rust, chLength := 2, chCrc := 0x332BEABE
                         pbuf := [(0, 0x48), (1, 0x69)] } 0x00210000 0
      (fun t => decide (t.outLen = 14) && decide (readBytes t .obuf 0 14 = hiFrame)) = true := by
  decide
/-- V-SER-1. -/
theorem test_chunkSerialize_none :
    commitGives 0x21 State.reset 0x00211200 0
      (fun t => decide (t.outLen = 0) && decide (t.obuf = [])) = true := by decide
/-- V-PARSE-17: three trailing bytes. -/
theorem test_chunkParse_ok :
    commitGives 0x22 (loaded (hiFrame ++ [0x01, 0x02, 0x03]) 17) 0x00220000 0 (fun t =>
      decide (t.chType = rust) && decide (t.chLength = 2) && decide (t.chCrc = 0x332BEABE) &&
      decide (t.consumed = 14) && decide (chPropsWord t = 0x0000011D) &&
      decide (readBytes t .pbuf 0 2 = [0x48, 0x69]) && !t.typeValid) = true := by decide +kernel
/-- V-PARSE-11: the CRC in the standard PNG order. -/
theorem test_chunkParse_order :
    commitGives 0x22
      (loaded [0x00, 0x00, 0x00, 0x02, 0x52, 0x75, 0x53, 0x74, 0x48, 0x69, 0x47, 0x38, 0x1B, 0xD1]
        14) 0x00220400 0x332BEABE (fun t => !t.chValid && decide (t.consumed = 0)) = true := by decide +kernel
/-- V-CMD-6. -/
theorem test_illegal_word :
    commitGives 0x121 State.reset 0x00211000 0x00000121 (fun t => decide (t.obuf = [])) = true := by
  decide

/-! ### The bus (2.8, 2.9) -/

/-- V-BUS-1, -4, -7, -8. -/
theorem test_bus_registers :
    (busAccess { kind := .read, addr := 0x0C, size := .four, wdata := 0 } State.reset).2 =
      { resp := .okay, rdata := some 0x00001000 } ∧
    (busAccess { kind := .read, addr := 0x3FFFFFFC, size := .four, wdata := 0 } State.reset).2 =
      { resp := .okay, rdata := some 0 } ∧
    (busAccess { kind := .read, addr := 0x02, size := .four, wdata := 0 } State.reset).2.resp =
      .slverr ∧
    (busAccess { kind := .read, addr := 0x04, size := .one, wdata := 0 } State.reset).2.resp =
      .slverr := by decide
/-- V-BUS-11, and V-BUS-10's read of the byte. -/
theorem test_bus_ibuf_write :
    (busAccess { kind := .write, addr := 0x40000000, size := .one, wdata := 0x1FF }
      State.reset).1.ibuf = [(0, 0xFF)] ∧
    (busAccess { kind := .read, addr := 0x40000000, size := .one, wdata := 0 }
      (loaded [0x52] 0)).2 = { resp := .okay, rdata := some 0x52 } := by decide
/-- V-BUS-14, -15, -18, -20. -/
theorem test_bus_buffer_errors :
    ([{ kind := .read, addr := 0x4000100C, size := .one, wdata := 0 },
      { kind := .write, addr := 0x80000000, size := .one, wdata := 5 },
      { kind := .read, addr := 0xC0001000, size := .one, wdata := 0 },
      { kind := .read, addr := 0x8000100C, size := .one, wdata := 0 }] : List Request).all
      (fun q => decide ((busAccess q State.reset).2 = { resp := .slverr, rdata := some 0 })) =
      true := by decide
/-- V-BUS-13, -17: the last bytes, never written, answer OKAY. -/
theorem test_bus_last_bytes :
    (busAccess { kind := .read, addr := 0x4000100B, size := .one, wdata := 0 } State.reset).2.resp =
      .okay ∧
    (busAccess { kind := .read, addr := 0xC0000FFF, size := .one, wdata := 0 } State.reset).2.resp =
      .okay := by decide
/-- V-OVR-2 and the commit after it: STATUS = 0x00100002. -/
theorem test_busy_write_dropped :
    commitGives 0x10 State.reset 0x00100000 0 (fun _ => true) = true ∧
    ends (step { (busAccess (writeReq32 (regAddr .inLen) 4) (busy 0x10 State.reset)).1 with
        turns := [.clk true] })
      (fun t => decide (statusWord t = 0x00100002) && decide (t.inLen = 0)) = true := by decide
/-- V-OVR-5, -8: a read-only register and OBUF do not set OVR. -/
theorem test_busy_write_ignored :
    (busAccess (writeReq32 (regAddr .type) 1) (busy 0x10 State.reset)).1 = busy 0x10 State.reset ∧
    (busAccess (writeReq8 (bufAddr .obuf 0) 0) (busy 0x10 State.reset)).1 =
      busy 0x10 State.reset := by decide

/-! ### Reset (2.10) and the host's notation -/

/-- V-RST-2: the command in flight is abandoned. -/
theorem test_reset_abandons :
    ends (Host.Core.run Sys2Proof.core 3
        { busy 0x22 (loaded hiFrame 14) with turns := [.rstFall, .clk true, .rstRise] })
      (fun t => !t.chValid && decide (t.chLength = 0) && decide (statusWord t = 0) &&
        decide (t.caps = 0x00001000) && decide (t.rst = .high)) = true := by decide
/-- A pulse that saw no edge of clk is the one stop (log entry 7). -/
theorem test_reset_pulse :
    step { State.reset with rst := .low false, turns := [.rstRise] } =
      .fault .resetPulseTooShort := rfl
/-- LOAD, SETLEN and RUN, expanded as R117 says. -/
theorem test_notation :
    assemble [.load [0x52, 0x75], .setLen 4, .run .ctFromText] =
      [.bus { kind := .write, addr := 0x40000000, size := .one, wdata := 0x52 },
       .bus { kind := .write, addr := 0x40000001, size := .one, wdata := 0x75 },
       .bus { kind := .write, addr := 0x00000014, size := .four, wdata := 0x00000004 },
       .bus { kind := .write, addr := 0x00000000, size := .four, wdata := 0x00000002 }, .wait] := by
  decide

/-! ### Witnesses: for each statement with hypotheses, a state and operands that meet them together,
clause by clause and at the ends of the ranges -/

open Sys2Proof.Claims

/-- The state an outcome goes on with. -/
def after (o : Host.Outcome State Fault Refusal) : State :=
  match o with
  | .next t => t
  | .fault _ => State.reset
  | .refused _ => State.reset

/-- "RuSt" and the payload "Hi", ready for CHUNK_NEW (V-NEW-1). -/
def hiState : State := typed rust (loaded [0x48, 0x69] 2)

/-- The chunk of V-NEW-1. -/
def hiChunk : State :=
  { hiState with chType := rust, chLength := 2, chCrc := 0x332BEABE, chValid := true
                 pbuf := [(0, 0x48), (1, 0x69)] }

/-- The last register of the map, as the host reads it (R31). -/
def lastReg : Request := { kind := .read, addr := 0x38, size := .four, wdata := 0 }

theorem witness_good_state : Inv hiState where
  capsLegal := by decide
  ibufWf := by decide
  obufWf := by decide
  pbufWf := by decide
  typeAlpha := fun _ => by decide
  typeUnset := fun h => by cases h
  chunkAlpha := fun h => by cases h
  chunkFits := fun h => by cases h
  chunkCrcHolds := fun h => by cases h
  chunkWritten := fun h => by cases h
  chunkUnset := fun _ => ⟨rfl, rfl, rfl⟩
  outLenFits := .inl rfl
  outWritten := fun i h => absurd h (Nat.not_lt_zero i)
  consumedFits := .inl rfl
  lastOpOfPending := fun h => by cases h
  errProduced := by decide
  resetQuiet := fun h => absurd rfl h

theorem witness_StepRunsTheDecodedCommand :
    nextTurn (busy 0x22 hiState) = .clk true ∧ (busy 0x22 hiState).pendValid = true ∧
      (busy 0x22 hiState).rst = .high ∧
      decode (busy 0x22 hiState).pendCmd = some .chunkParse := by decide

theorem witness_IllegalWordCommitsOnlyItsError :
    nextTurn (busy 0x121 hiState) = .clk true ∧ (busy 0x121 hiState).pendValid = true ∧
      (busy 0x121 hiState).rst = .high ∧ decode (busy 0x121 hiState).pendCmd = none := by decide

theorem witness_AcceptanceOfACommand : hiState.pendValid = false := rfl

/-- The three dropped registers, the last byte of IBUF, and the first and last reserved word. -/
theorem witness_BusyWritesAreDropped :
    (busy 0x10 hiState).pendValid = true ∧
    (windowOf 0x4000100B = some .ibuf ∧
      offsetOf 0x4000100B < bufferSize (busy 0x10 hiState) .ibuf) ∧
    (([0x3C, 0x3FFFFFFC, 0x04, 0x38] : List Word).all fun a =>
      decide (windowOf a = none ∧ a.extractLsb' 0 2 = 0 ∧ a ≠ 0x00 ∧ a ≠ 0x10 ∧ a ≠ 0x14)) =
      true := by decide

theorem witness_RegisterMapReads :
    ((0x38 : Word), hiState.crcOut) ∈ [((0x00 : Word), (0 : Word)), (0x38, hiState.crcOut)] := by
  decide

theorem witness_MisshapenRegisterAccess :
    (windowOf 0x3FFFFFFC = none ∧ AccessSize.one ≠ .four) ∧
    (windowOf 0x3FFFFFFF = none ∧ (0x3FFFFFFF : Word).extractLsb' 0 2 ≠ 0) := by decide

/-- The clauses' first and last offsets: CMD, 0x38, 0x3C and the end of the window. -/
theorem witness_ReservedAndReadOnlyRegisters :
    (([0x00, 0x04, 0x38, 0x3C, 0x3FFFFFFC] : List Word).all fun a =>
      decide (windowOf a = none ∧ a.extractLsb' 0 2 = 0)) = true ∧
    0x3C ≤ offsetOf 0x3C ∧ 0x3C ≤ offsetOf 0x3FFFFFFC ∧ ¬ 0x3C ≤ offsetOf 0x38 ∧
    offsetOf 0x00 = 0 := by decide

theorem witness_OperandRegisterWrites : State.reset.pendValid = false := rfl

/-- The last byte inside and the first offset outside each buffer. -/
theorem witness_BufferAccessShape :
    (windowOf 0x4000100B = some .ibuf ∧ offsetOf 0x4000100B < bufferSize hiState .ibuf) ∧
    (windowOf 0x4000100C = some .ibuf ∧ bufferSize hiState .ibuf ≤ offsetOf 0x4000100C) ∧
    (windowOf 0x8000100B = some .obuf ∧ offsetOf 0x8000100B < bufferSize hiState .obuf) ∧
    (windowOf 0x8000100C = some .obuf ∧ bufferSize hiState .obuf ≤ offsetOf 0x8000100C) ∧
    (windowOf 0xC0000FFF = some .pbuf ∧ offsetOf 0xC0000FFF < bufferSize hiState .pbuf) ∧
    (windowOf 0xC0001000 = some .pbuf ∧ bufferSize hiState .pbuf ≤ offsetOf 0xC0001000) := by
  decide

theorem witness_BufferWriteRights :
    (windowOf 0x4000100B = some .ibuf ∧ offsetOf 0x4000100B < bufferSize hiState .ibuf ∧
      hiState.pendValid = false ∧ (busy 0x10 hiState).pendValid = true) ∧
    windowOf 0xBFFFFFFF = some .obuf ∧ windowOf 0xC0000000 = some .pbuf := by decide

/-- The ends of the four windows. -/
theorem witness_AddressWindows :
    windowOf 0x3FFFFFFF = none ∧ windowOf 0x40000000 = some .ibuf ∧
    windowOf 0x7FFFFFFF = some .ibuf ∧ windowOf 0x80000000 = some .obuf ∧
    windowOf 0xBFFFFFFF = some .obuf ∧ windowOf 0xC0000000 = some .pbuf ∧
    windowOf 0xFFFFFFFF = some .pbuf ∧ offsetOf 0x7FFFFFFF = 2 ^ 30 - 1 := by decide

theorem witness_ReadsHaveNoSideEffect : lastReg.kind = .read := rfl

theorem witness_BusErrorsChangeNothing :
    (busAccess (writeReq8 (bufAddr .obuf 0) 5) hiState).2.resp = .slverr := by decide

theorem witness_WaitPollsStatusUntilIdle :
    ∃ rest, let s : State := { busy 0x10 hiState with host := assemble [.wait], turns := [.host] }
      nextTurn s = .host ∧ s.rst = .high ∧ s.host = Stmt.wait.expand ++ rest ∧
      s.pendValid = true := ⟨[], by decide⟩

/-- A request, a COPY element, nothing to do, and rst_n low. -/
theorem witness_HostActsAsItsStatementsSay :
    (∃ (s : State) (q : Request) (rest : List HostOp), nextTurn s = .host ∧ s.rst = .high ∧
      s.host = .bus q :: rest) ∧
    (∃ (s : State) (src dst : Word) (rest : List HostOp), nextTurn s = .host ∧ s.rst = .high ∧
      s.host = .copyByte src dst :: rest) ∧
    (nextTurn hiState = .host ∧ hiState.host = []) ∧
    ∃ s : State, nextTurn s = .host ∧ s.rst ≠ .high :=
  ⟨⟨{ hiState with host := assemble [.setLen 4] }, _, _, rfl, rfl, rfl⟩,
    ⟨{ hiState with host := assemble [.copy 1] }, _, _, _, rfl, rfl, rfl⟩, ⟨rfl, rfl⟩,
    { hiState with rst := .low true, turns := [.host] }, rfl, by decide⟩

/-- V-PARSE-1's length field. -/
theorem witness_BufferFieldsAreBigEndian :
    readWord (loaded hiFrame 14) .ibuf 0 = 0x00000002 ∧
      (readBytes (loaded hiFrame 14) .ibuf 8 2)[1]? = some 0x69 := by decide

theorem witness_CapsIsTheConstantMaxPayload : ∃ t, step (busy 0x20 hiState) = .next t :=
  ⟨_, rfl⟩

/-- The ends of the two ranges of R16, and the bytes just outside them. -/
theorem witness_PropertiesAreCaseBits :
    ([0x41, 0x5A, 0x61, 0x7A] : List Byte).all isAlpha = true ∧
      ([0x40, 0x5B, 0x60, 0x7B] : List Byte).any isAlpha = false := by decide

/-- "RuSt" and "AaPa" differ, and agree in bits 29, 21, 13 and 5. -/
theorem witness_PropertiesReadOnlyTheCaseBits :
    (rust.getLsbD 29 = (0x41615061 : Word).getLsbD 29 ∧
      rust.getLsbD 21 = (0x41615061 : Word).getLsbD 21 ∧
      rust.getLsbD 13 = (0x41615061 : Word).getLsbD 13 ∧
      rust.getLsbD 5 = (0x41615061 : Word).getLsbD 5) ∧ rust ≠ 0x41615061 := by decide

/-- V-L1-2 at its two ends. -/
theorem witness_least_bad :
    LeastBad (bytesBE32 0x31755374) 0 ∧ LeastBad (bytesBE32 0x52755331) 3 := by
  refine ⟨⟨by decide, fun j h => absurd h (Nat.not_lt_zero j), 0x31, by decide, by decide⟩,
    by decide, fun j h => ?_, 0x31, by decide, by decide⟩
  interval_cases j <;> exact ⟨_, rfl, by decide⟩

theorem witness_CtFromBytesResult :
    alphaCode rust = true ∧ alphaCode 0x31755374 = false ∧
      LeastBad (bytesBE32 0x31755374) 0 := ⟨by decide, by decide, witness_least_bad.1⟩

/-- IN_LEN at IBUF_SIZE + 1, 3, 4 and IBUF_SIZE. -/
theorem witness_CtFromTextResult :
    bufferSize (loaded [] 4109) .ibuf < (loaded [] 4109).inLen.toNat ∧
    (loaded [] 3).inLen.toNat < 4 ∧
    (([4, 4108] : List Word).all fun n =>
      let s := loaded [0x52, 0x75, 0x53, 0x74] n
      decide (4 ≤ s.inLen.toNat ∧ s.inLen.toNat ≤ bufferSize s .ibuf) &&
      alphaCode (be32 (readByte s .ibuf 0) (readByte s .ibuf 1) (readByte s .ibuf 2)
        (readByte s .ibuf 3))) = true ∧
    readBytes (loaded [0x52, 0x75, 0x53, 0x31] 4) .ibuf 0 4 = bytesBE32 0x52755331 := by decide

theorem witness_CrcBufResult :
    bufferSize (loaded [] 4109) .ibuf < (loaded [] 4109).inLen.toNat ∧
    (loaded [] 4108).inLen.toNat ≤ bufferSize (loaded [] 4108) .ibuf ∧
    (loaded [] 0).inLen = 0 := by decide

/-- A burst of the full 32 bits, at bit 8. -/
theorem witness_CrcDetectsEveryShortBurst :
    ∃ s t : List Byte, s.length = t.length ∧ s ≠ t ∧
      ∀ i, bitOf s i ≠ bitOf t i → 8 ≤ i ∧ i < 8 + 32 := by
  refine ⟨[0x61, 0, 0, 0, 0, 0x62], [0x61, 0xFF, 0xFF, 0xFF, 0xFF, 0x62], rfl, by decide,
    fun i h => ?_⟩
  by_contra hc
  apply h
  by_cases h1 : i < 48
  · interval_cases i <;> first | rfl | omega
  · have h2 : 6 ≤ i / 8 := by omega
    simp only [bitOf, List.getD_eq_getElem?_getD]
    rw [List.getElem?_eq_none (by simpa using h2), List.getElem?_eq_none (by simpa using h2)]

/-- No type, IN_LEN at MAX_PAYLOAD + 1 and at MAX_PAYLOAD. -/
theorem witness_ChunkNewResult :
    (loaded [] 0).typeValid = false ∧
    ((typed rust (loaded [] 4097)).typeValid = true ∧
      maxPayload (typed rust (loaded [] 4097)) < (typed rust (loaded [] 4097)).inLen.toNat) ∧
    ((typed rust (loaded [] 4096)).typeValid = true ∧
      (typed rust (loaded [] 4096)).inLen.toNat ≤ maxPayload (typed rust (loaded [] 4096))) := by
  decide

theorem witness_ChunkSerializeResult : State.reset.chValid = false ∧ hiChunk.chValid = true := by
  decide

theorem witness_ParseTooShort :
    (loaded hiFrame 11).inLen.toNat < 12 ∧ (loaded [] 0).inLen.toNat < 12 := by decide

/-- V-PARSE-6: 12 bytes, '0' first in the type. -/
theorem witness_ParseBadType :
    ∃ s : State, 12 ≤ s.inLen.toNat ∧ s.inLen.toNat ≤ bufferSize s .ibuf ∧
      LeastBad (readBytes s .ibuf 4 4) 0 :=
  ⟨loaded [0x00, 0x00, 0x00, 0x00, 0x30, 0x75, 0x53, 0x74, 0xD4, 0x84, 0x09, 0x3C] 12, by decide,
    by decide, by decide, fun j h => absurd h (Nat.not_lt_zero j), 0x30, by decide, by decide⟩

/-- V-PARSE-8: one byte of the CRC field is missing. -/
theorem witness_ParseTruncated :
    12 ≤ (loaded hiFrame 13).inLen.toNat ∧
    (loaded hiFrame 13).inLen.toNat ≤ bufferSize (loaded hiFrame 13) .ibuf ∧
    alphaCode (readWord (loaded hiFrame 13) .ibuf 4) = true ∧
    (loaded hiFrame 13).inLen.toNat < 12 + (readWord (loaded hiFrame 13) .ibuf 0).toNat := by decide

/-- V-PARSE-19. -/
theorem witness_ParseChecksumGate :
    ∃ s : State, s.inLen.toNat ≤ bufferSize s .ibuf ∧ alphaCode (readWord s .ibuf 4) = true ∧
      12 + (readWord s .ibuf 0).toNat ≤ s.inLen.toNat ∧
      crc32 (readBytes s .ibuf 8 (readWord s .ibuf 0).toNat ++ bytesBE32 (readWord s .ibuf 4)) ≠
        readWord s .ibuf (8 + (readWord s .ibuf 0).toNat) :=
  ⟨loaded [0, 0, 0, 0, 0x52, 0x75, 0x53, 0x74, 0, 0, 0, 0] 12, by decide +kernel⟩

/-- V-PARSE-1 and V-PARSE-17 are accepted; V-PARSE-20's length is not. -/
theorem witness_ParseResult :
    Accepted (loaded hiFrame 14) ∧ Accepted (loaded (hiFrame ++ [1, 2, 3]) 17) ∧
      bufferSize (loaded [] 4109) .ibuf < (loaded [] 4109).inLen.toNat := by
  refine ⟨?_, ?_, by decide⟩ <;> (unfold Accepted; decide +kernel)

/-- V-NEW-1's chunk, serialized and copied back, and V-PARSE-11's frame. -/
theorem witness_NewSerializeParseRoundTrip :
    (∃ s s1 s2 s3 : State, Inv s ∧ exec .chunkNew s = .next s1 ∧ s1.err = .ok ∧
      exec .chunkSerialize s1 = .next s2 ∧ s3.caps = s2.caps ∧ s3.inLen = s2.outLen ∧
      ∀ i, i < s2.outLen.toNat → readByte s3 .ibuf i = readByte s2 .obuf i) ∧
    ∃ s : State, s.inLen.toNat ≤ bufferSize s .ibuf ∧ alphaCode (readWord s .ibuf 4) = true ∧
      12 + (readWord s .ibuf 0).toNat ≤ s.inLen.toNat ∧
      (let p := readBytes s .ibuf 8 (readWord s .ibuf 0).toNat
       let c := bytesBE32 (readWord s .ibuf 4)
       readWord s .ibuf (8 + (readWord s .ibuf 0).toNat) = crc32 (c ++ p) ∧
       crc32 (p ++ c) ≠ crc32 (c ++ p)) := by
  refine ⟨⟨hiState, after (exec .chunkNew hiState), after (exec .chunkSerialize (after (exec .chunkNew hiState))),
    { after (exec .chunkSerialize (after (exec .chunkNew hiState))) with
        inLen := (after (exec .chunkSerialize (after (exec .chunkNew hiState)))).outLen
        ibuf := (after (exec .chunkSerialize (after (exec .chunkNew hiState)))).obuf },
    witness_good_state, rfl, rfl, rfl, rfl, rfl, ?_⟩,
    loaded [0, 0, 0, 2, 0x52, 0x75, 0x53, 0x74, 0x48, 0x69, 0x47, 0x38, 0x1B, 0xD1] 14,
    by decide +kernel⟩
  decide +kernel

theorem witness_RoundTripOverTheBus :
    let s : State := { hiState with host := assemble (roundTripActions 2) }
    Inv s ∧ s.rst = .high ∧ s.pendValid = false ∧ s.turns = [] ∧ s.typeValid = true ∧
      s.inLen.toNat ≤ maxPayload s ∧ s.host = assemble (roundTripActions s.inLen.toNat) :=
  ⟨{ witness_good_state with }, rfl, rfl, rfl, rfl, by decide, rfl⟩

/-- V-PARSE-1's frame with byte `j` replaced. -/
def tampered (j : Nat) (b : Byte) : State := loaded (hiFrame.set j b) 14

theorem tampered_elsewhere (j : Nat) (b : Byte) (i : Nat) (h : i ≠ j) :
    readByte (tampered j b) .ibuf i = readByte (loaded hiFrame 14) .ibuf i := by
  simp [readByte, bufferCells, tampered, loaded, lookup_cellsAt, Ne.symm h]

/-- The first type byte, the first and last payload bytes, and the first and last CRC bytes (the last
is V-PARSE-10's change). -/
theorem witness_TamperedFrameIsRejected :
    ∀ c ∈ [((4 : Nat), (0x72 : Byte)), (8, 0x58), (9, 0x58), (10, 0x32), (13, 0xBD)],
      Accepted (loaded hiFrame 14) ∧ (tampered c.1 c.2).caps = (loaded hiFrame 14).caps ∧
      (tampered c.1 c.2).inLen = (loaded hiFrame 14).inLen ∧ 4 ≤ c.1 ∧
      c.1 < 12 + (readWord (loaded hiFrame 14) .ibuf 0).toNat ∧
      readByte (tampered c.1 c.2) .ibuf c.1 ≠ readByte (loaded hiFrame 14) .ibuf c.1 ∧
      (∀ i, i ≠ c.1 → readByte (tampered c.1 c.2) .ibuf i = readByte (loaded hiFrame 14) .ibuf i) ∧
      alphaCode (readWord (tampered c.1 c.2) .ibuf 4) = true := by
  intro c hc
  refine ⟨witness_ParseResult.1, rfl, rfl, ?_, ?_, ?_, tampered_elsewhere c.1 c.2, ?_⟩ <;>
    (revert c; decide)

/-- 8 + L is byte 10 of that frame: both sides of the clause on ERR_INFO are met. -/
theorem witness_tampered_crc_field :
    8 + (readWord (loaded hiFrame 14) .ibuf 0).toNat = 10 := by decide

theorem witness_CommandsWriteOnlyTheirOutputs :
    ∃ t, exec .chunkNew hiState = .next t := ⟨_, rfl⟩

/-- An acceptance and a commit. -/
theorem witness_BusyFollowsTheCommand :
    (∃ t, step { hiState with host := assemble [.cmd .chunkNew] } = .next t ∧
      hiState.pendValid = false ∧ t.pendValid = true ∧
      State.nextRequest { hiState with host := assemble [.cmd .chunkNew] }
        (writeReq32 0x00 0x00000020)) ∧
    ∃ t, step (busy 0x20 hiState) = .next t ∧ (busy 0x20 hiState).pendValid = true ∧
      t.pendValid = false := ⟨⟨_, rfl, rfl, rfl, _, rfl⟩, _, rfl, rfl, rfl⟩

theorem witness_ResultCodeChangesOnlyAtACommit :
    ∃ t, step (busy 0x21 hiState) = .next t ∧ ¬ LeavesReset (busy 0x21 hiState) ∧
      t.err ≠ (busy 0x21 hiState).err :=
  ⟨_, rfl, fun h => absurd h.2 (by decide), by decide⟩

/-- An edge on which the engine does not commit. -/
theorem witness_PreCommandStateUntilCommit :
    ∃ s t : State, s.pendValid = true ∧ s.rst = .high ∧ step s = .next t ∧ t.pendValid = true :=
  ⟨{ busy 0x20 hiState with turns := [.clk false] }, _, rfl, rfl, rfl, rfl⟩

/-- A schedule that makes the command wait. -/
theorem witness_EveryAcceptedCommandCommits :
    let s : State := { busy 0x20 hiState with turns := [.host, .clk false, .host] }
    s.pendValid = true ∧ s.rst = .high ∧ NoReset s := by
  refine ⟨rfl, rfl, fun t ht => ?_⟩
  simp at ht
  rcases ht with rfl | rfl | rfl <;> decide

theorem witness_WriteRaceHasBothOutcomes :
    let s : State := { busy 0x10 hiState with host := assemble [.w32 (.reg .inLen) 4] }
    s.pendValid = true ∧ s.pendCmd = 0x00000010 ∧ s.rst = .high ∧
      s.inLen.toNat ≤ bufferSize s .ibuf ∧ s.host = assemble [.w32 (.reg .inLen) 4] := by decide

/-- A step that is not the end of a reset, and one that is. -/
theorem witness_ValidityFlagsSetOnceAndKept :
    (∃ t, step (busy 0x20 hiState) = .next t ∧ ¬ LeavesReset (busy 0x20 hiState) ∧
      CommitsOk .chunkNew (busy 0x20 hiState) t) ∧
    ∃ t, step { hiChunk with rst := .low true, turns := [.rstRise] } = .next t ∧
      LeavesReset { hiChunk with rst := .low true, turns := [.rstRise] } :=
  ⟨⟨_, rfl, fun h => absurd h.2 (by decide), by decide, rfl, rfl, by decide, rfl⟩,
    _, rfl, rfl, rfl⟩

theorem witness_ResultRegistersHaveTheirWriters :
    ∃ t, step (busy 0x20 hiState) = .next t ∧ ¬ LeavesReset (busy 0x20 hiState) ∧
      t.chType ≠ hiState.chType :=
  ⟨_, rfl, fun h => absurd h.2 (by decide), by decide⟩

/-- The chunk of V-NEW-1 with an old byte in OBUF is a good state. -/
theorem witness_good_chunk : Inv { hiChunk with obuf := [(0, 0x01)] } where
  capsLegal := by decide
  ibufWf := by decide
  obufWf := by decide
  pbufWf := by decide
  typeAlpha := fun _ => by decide
  typeUnset := fun h => by cases h
  chunkAlpha := fun _ => by decide
  chunkFits := fun _ => by decide
  chunkCrcHolds := fun _ => by decide +kernel
  chunkWritten := fun _ i h => by
    replace h : i < 2 := h
    interval_cases i <;> rfl
  chunkUnset := fun h => by cases h
  outLenFits := .inl rfl
  outWritten := fun i h => absurd h (Nat.not_lt_zero i)
  consumedFits := .inl rfl
  lastOpOfPending := fun h => by cases h
  errProduced := by decide
  resetQuiet := fun h => absurd rfl h

/-- An IBUF byte, an OBUF byte and a PBUF byte that change. -/
theorem witness_BufferBytesChangeOnlyByTheirWriters :
    (∃ s t : State, Inv s ∧ step s = .next t ∧ ¬ LeavesReset s ∧
      readByte t .ibuf 0 ≠ readByte s .ibuf 0) ∧
    (∃ s t : State, Inv s ∧ step s = .next t ∧ ¬ LeavesReset s ∧
      readByte t .obuf 0 ≠ readByte s .obuf 0) ∧
    ∃ s t : State, Inv s ∧ step s = .next t ∧ ¬ LeavesReset s ∧
      readByte t .pbuf 0 ≠ readByte s .pbuf 0 :=
  ⟨⟨{ hiState with host := assemble [.w8 (.buf .ibuf 0) 0x00] }, _, { witness_good_state with },
      rfl, fun h => absurd h.2 (by decide), by decide⟩,
    ⟨busy 0x21 { hiChunk with obuf := [(0, 0x01)] }, _,
      { witness_good_chunk with
          lastOpOfPending := fun _ => rfl, resetQuiet := fun h => absurd rfl h },
      rfl, fun h => absurd h.2 (by decide), by decide⟩,
    busy 0x20 { hiState with pbuf := [(0, 0x01)] }, _,
      { witness_good_state with
          pbufWf := by decide
          chunkCrcHolds := fun h => by cases h
          chunkWritten := fun h => by cases h
          lastOpOfPending := fun _ => rfl, resetQuiet := fun h => absurd rfl h },
      rfl, fun h => absurd h.2 (by decide), by decide⟩

/-- A dropped write, and the acceptance that clears OVR. -/
theorem witness_OverrunIsSticky :
    (∃ s t : State, step s = .next t ∧ s.ovr = false ∧ t.ovr = true) ∧
    ∃ s t : State, step s = .next t ∧ s.ovr = true ∧ t.ovr = false :=
  ⟨⟨{ busy 0x10 hiState with host := assemble [.setLen 4], turns := [.host] }, _, rfl, rfl, rfl⟩,
    { hiState with ovr := true, host := assemble [.cmd .crcBuf] }, _, rfl, rfl, rfl⟩

/-- A byte at IN_LEN differs. -/
theorem witness_CommandsReadOnlyBelowInLen :
    ∃ (s t : State) (m : Memory), (∀ k, k < s.inLen.toNat →
      readByte { s with ibuf := m } .ibuf k = readByte s .ibuf k) ∧
      m ≠ s.ibuf ∧ exec .chunkNew s = .next t :=
  ⟨hiState, _, [(0, 0x48), (1, 0x69), (2, 0xFF)], by decide, by decide, rfl⟩

/-- Bytes beyond the chunk and in OBUF differ. -/
theorem witness_StaleBytesReachNothing :
    ∃ (s t : State) (mo mp : Memory), (s.chValid = true → ∀ k, k < s.chLength.toNat →
      readByte { s with obuf := mo, pbuf := mp } .pbuf k = readByte s .pbuf k) ∧
      s.chValid = true ∧ mp ≠ s.pbuf ∧ exec .chunkSerialize s = .next t :=
  ⟨hiChunk, _, [(20, 1)], [(0, 0x48), (1, 0x69), (2, 0xFF)], fun _ => by decide, rfl, by decide,
    rfl⟩

theorem witness_ResetTable :
    (nextTurn { busy 0x20 hiState with turns := [.rstFall] } = .rstFall ∧
      (busy 0x20 hiState).rst = .high) ∧
    nextTurn { hiState with rst := .low true, turns := [.host] } = .host ∧
    ∃ t, step { hiState with rst := .low true, turns := [.rstRise] } = .next t :=
  ⟨⟨rfl, rfl⟩, rfl, _, rfl⟩

theorem witness_ResetLeavesBuffersFree :
    ∃ s t : State, nextTurn s = .rstRise ∧ s.rst = .low true ∧ step s = .next t :=
  ⟨{ hiChunk with rst := .low true, turns := [.rstRise] }, _, rfl, rfl, rfl⟩

/-- The ends of MAX_PAYLOAD's range. -/
theorem witness_ResetMeetsTheInvariant :
    Config.legalMaxPayload (1 : Word).toNat = true ∧
      Config.legalMaxPayload (0x3FFFFFF4 : Word).toNat = true := by decide

theorem witness_EveryStepKeepsTheInvariant :
    ∃ s t : State, Inv s ∧ step s = .next t :=
  ⟨{ hiState with host := assemble [.cmd .chunkNew] }, _, { witness_good_state with }, rfl⟩

end Sys2Proof.Tests
end

section
/-! PROOFS. The command in flight until its commit: what the host and idle edges can change while
BUSY = 1, that every commit clears BUSY, and that the schedule's own length bounds the wait
(O47). -/

namespace Sys2Proof.Machine

open Sys2Proof.Claims

/-! ### What a waiting command leaves to change -/

/-- From `s` to `t` nothing has changed but STATUS.OVR and what lies outside the block: the host's
list, the schedule and the responses given. -/
def OnlyHostSideChanged (s t : State) : Prop :=
  t = { s with ovr := t.ovr, host := t.host, turns := t.turns, responses := t.responses }

namespace OnlyHostSideChanged

variable {s t u : State}

/-- The definition as a rewriting rule for `t`. -/
protected theorem eq (h : OnlyHostSideChanged s t) :
    t = { s with ovr := t.ovr, host := t.host, turns := t.turns, responses := t.responses } := h

protected theorem refl (s : State) : OnlyHostSideChanged s s := rfl

protected theorem trans (h : OnlyHostSideChanged s t) (h' : OnlyHostSideChanged t u) :
    OnlyHostSideChanged s u := by
  unfold OnlyHostSideChanged
  rw [h'.eq, h.eq]

theorem pendValid_eq (h : OnlyHostSideChanged s t) : t.pendValid = s.pendValid := by
  rw [h.eq]

theorem pendCmd_eq (h : OnlyHostSideChanged s t) : t.pendCmd = s.pendCmd := by
  rw [h.eq]

theorem ctIn_eq (h : OnlyHostSideChanged s t) : t.ctIn = s.ctIn := by
  rw [h.eq]

theorem inLen_eq (h : OnlyHostSideChanged s t) : t.inLen = s.inLen := by
  rw [h.eq]

theorem ibuf_eq (h : OnlyHostSideChanged s t) : t.ibuf = s.ibuf := by
  rw [h.eq]

theorem rst_eq (h : OnlyHostSideChanged s t) : t.rst = s.rst := by
  rw [h.eq]

end OnlyHostSideChanged

/-- R295: while BUSY = 1 a transaction is a read, an ignored write or a dropped one. -/
theorem transact_busy {s : State} (hp : s.pendValid = true) (q : Request) :
    OnlyHostSideChanged s (transact q s) := by
  obtain h | ⟨-, h⟩ | ⟨hidle, -⟩ := busAccess_cases q s
  · rw [transact, h]; rfl
  · rw [transact, h]; rfl
  · rw [hp] at hidle; cases hidle

/-- While BUSY = 1 the host's turn reaches only OVR and the host's own side. -/
theorem hostTurn_busy {s : State} (hp : s.pendValid = true) :
    OnlyHostSideChanged s (hostTurn s) := by
  obtain h | ⟨-, q, p, h⟩ := hostTurn_cases s
  · rw [h]; exact .refl s
  · rw [h]; exact (transact_busy hp q).trans rfl

/-- A host turn does not touch the schedule. -/
@[simp] theorem hostTurn_turns (s : State) : (hostTurn s).turns = s.turns := by
  obtain h | ⟨-, q, p, h⟩ := hostTurn_cases s
  · rw [h]
  · rw [h, setHost_turns, transact, respond_turns]
    obtain h | ⟨-, h⟩ | ⟨-, h | h | h | ⟨-, h⟩⟩ := busAccess_cases q s <;> rw [h] <;> rfl

/-- With rst_n high an edge of clk that does not commit leaves the state. -/
theorem noteEdge_of_high {s : State} (hr : s.rst = .high) : noteEdge s = s := by
  cases s
  cases hr
  rfl

/-- A step that neither commits nor moves rst_n consumes one turn and leaves the command in flight
with its operands. -/
theorem step_waits {s : State} (hp : s.pendValid = true) (hr : s.rst = .high)
    (hn : nextTurn s = .host ∨ nextTurn s = .clk false) :
    ∃ t, step s = .next t ∧ t.turns = s.turns.tail ∧ OnlyHostSideChanged s t := by
  have hdrop : OnlyHostSideChanged s (dropTurn s) := rfl
  obtain hn | hn := hn
  · have hbusy : (dropTurn s).pendValid = true := hp
    exact ⟨_, step_host hn, hostTurn_turns _, hdrop.trans (hostTurn_busy hbusy)⟩
  · have hedge : step s = .next (dropTurn s) := by
      have hhigh : (dropTurn s).rst = .high := hr
      simp only [step, hn, commits, Bool.false_and, Bool.false_eq_true, if_false,
        noteEdge_of_high hhigh]
    exact ⟨_, hedge, rfl, hdrop⟩

/-! ### The commit -/

/-- R266: a successful commit clears BUSY. -/
theorem succeedsWith_pendValid {i : Instr} {s t : State} (h : succeedsWith i s t) :
    t.pendValid = false := by
  cases i with
  | ctFromBytes => obtain ⟨-, rfl⟩ := h; rfl
  | ctFromText => obtain ⟨-, -, -, rfl⟩ := h; rfl
  | crcBuf => obtain ⟨-, rfl⟩ := h; rfl
  | chunkNew => obtain ⟨-, -, rfl⟩ := h; rfl
  | chunkSerialize => obtain ⟨-, rfl⟩ := h; rfl
  | chunkParse => obtain ⟨-, -, -, -, rfl⟩ := h; rfl

/-- R266: every commit, of a legal word or not, clears BUSY. -/
theorem runPending_pendValid (s : State) :
    ∃ t, runPending s = .next t ∧ t.pendValid = false := by
  obtain ⟨t, ht, ⟨e, info, -, -, rfl⟩ | ⟨i, -, hs⟩⟩ := runPending_cases s
  · exact ⟨_, ht, rfl⟩
  · exact ⟨t, ht, succeedsWith_pendValid hs⟩

/-! ### The wait is bounded by the schedule -/

/-- Whose turn it is while a command is in flight and no move of rst_n is scheduled: an edge of clk
at the schedule's end, by the fairness of R10 and R298, and the scheduled turn before it. -/
theorem nextTurn_busy {s : State} (hp : s.pendValid = true) (hnr : NoReset s) :
    nextTurn s = .clk true ∨
      (s.turns ≠ [] ∧ (nextTurn s = .host ∨ nextTurn s = .clk false)) := by
  unfold NoReset at hnr
  unfold nextTurn
  cases hts : s.turns with
  | nil => exact .inl (by simp [hp])
  | cons τ ts =>
    obtain ⟨hfall, hrise⟩ := hnr τ (by simp [hts])
    cases τ with
    | host => exact .inr ⟨by simp, .inl rfl⟩
    | clk c =>
      cases c with
      | true => exact .inl rfl
      | false => exact .inr ⟨by simp, .inr rfl⟩
    | rstFall => exact absurd rfl hfall
    | rstRise => exact absurd rfl hrise

/-- Whatever schedule of `n` turns without a move of rst_n stands before it, a command in flight
comes to its committing edge within `n` steps, by induction on `n`. -/
theorem run_to_commit {n : Nat} {s : State} (hlen : s.turns.length = n)
    (hp : s.pendValid = true) (hr : s.rst = .high) (hnr : NoReset s) :
    ∃ k u, k ≤ n ∧ Host.Core.run Sys2Proof.core k s = .next u ∧ nextTurn u = .clk true ∧
      OnlyHostSideChanged s u := by
  induction n generalizing s with
  | zero =>
    obtain hn | ⟨hne, -⟩ := nextTurn_busy hp hnr
    · exact ⟨0, s, le_rfl, rfl, hn, .refl s⟩
    · exact absurd (List.length_eq_zero_iff.mp hlen) hne
  | succ n ih =>
    obtain hn | ⟨-, hn⟩ := nextTurn_busy hp hnr
    · exact ⟨0, s, Nat.zero_le _, rfl, hn, .refl s⟩
    · obtain ⟨t, hst, hts, hsame⟩ := step_waits hp hr hn
      have hnrt : NoReset t := fun τ hτ => hnr τ (List.mem_of_mem_tail (hts ▸ hτ))
      have hlent : t.turns.length = n := by rw [hts, List.length_tail, hlen]; rfl
      obtain ⟨k, u, hk, hrun, hu, hsame'⟩ :=
        ih hlent (hsame.pendValid_eq.trans hp) (hsame.rst_eq.trans hr) hnrt
      exact ⟨k + 1, u, Nat.succ_le_succ hk, (run_succ k s t hst).trans hrun, hu,
        hsame.trans hsame'⟩

/-- Settles O47: the schedule's length bounds the wait, which leaves the operands, and the commit
clears BUSY. -/
theorem everyAcceptedCommandCommits : Obligations.EveryAcceptedCommandCommits := by
  intro s hp hr hnr
  obtain ⟨k, u, hk, hrun, hn, hsame⟩ := run_to_commit rfl hp hr hnr
  have hpu : u.pendValid = true := hsame.pendValid_eq.trans hp
  have hru : u.rst = .high := hsame.rst_eq.trans hr
  obtain ⟨v, hv, hdone⟩ := runPending_pendValid (dropTurn u)
  exact ⟨k, u, v, hk, hrun, hn, hpu, hru, hsame.pendCmd_eq, hsame.ctIn_eq, hsame.inLen_eq,
    hsame.ibuf_eq, (step_commit hn hpu hru).trans hv, hdone⟩

end Sys2Proof.Machine
end

section
/-! PROOFS. Every step keeps the invariant: one lemma per operation that a step is made of, put
together along the commands, the bus and the step (O58). -/

namespace Sys2Proof.Machine

open Sys2Proof.Claims

/-! ### What a store into a buffer has written -/

/-- A store leaves every offset written that was. -/
theorem written_store {m : Memory} {n : Nat} (h : Memory.written m n) (k : Nat) (bs : List Byte) :
    Memory.written (Memory.store m k bs) n := by
  intro i hi
  rw [lookup_store]
  split
  · next hin => rw [List.getElem?_eq_getElem (by omega : i - k < bs.length)]; rfl
  · exact h i hi

/-- Bytes stored at the start of a buffer are written. -/
theorem written_of_store (m : Memory) (bs : List Byte) :
    Memory.written (Memory.store m 0 bs) bs.length := by
  intro i hi
  have h := lookup_store_inside m 0 bs i hi
  rw [Nat.zero_add] at h
  rw [h]; rfl

/-- The payload of a chunk that has just been set is the one given. -/
theorem chunkData_setChunk {l : Word} {p : List Byte} (hl : l.toNat = p.length) (t c : Word)
    (s : State) : chunkData (setChunk t l c p s) = p := by
  rw [chunkData, setChunk_chLength, hl]
  exact readBytes_of_store (m := s.pbuf) rfl

/-- A frame is 12 bytes and its payload (R9, R210). -/
theorem frame_length (l t c : Word) (p : List Byte) : (frame l t p c).length = 12 + p.length := by
  simp only [frame, List.length_append, bytesBE32_length]
  omega

/-! ### Each operation keeps the invariant -/

/-- From `s` to `t` nothing has changed but what the invariant says nothing of. -/
def OnlyUnconstrainedChanged (s t : State) : Prop :=
  t = { s with ovr := t.ovr, errInfo := t.errInfo, ctIn := t.ctIn, inLen := t.inLen,
               crcOut := t.crcOut, host := t.host, turns := t.turns, responses := t.responses }

/-- The stored chunk: its flag and registers, and what its payload is read from. -/
def storedChunk (s : State) : Bool × Word × Word × Word × Memory × Nat :=
  (s.chValid, s.chType, s.chLength, s.chCrc, s.pbuf, s.draws)

namespace Inv

variable {s : State}

/-- The frame overhead and a legal payload add up without wrapping (R8, log entry 13). -/
theorem frameSize (h : Inv s) {l : Word} (hl : l.toNat ≤ maxPayload s) :
    (12 + l).toNat = 12 + l.toNat := by
  have hcaps : 1 ≤ maxPayload s ∧ maxPayload s ≤ 2 ^ 30 - 12 := of_decide_eq_true h.capsLegal
  rw [BitVec.toNat_add, show (12 : Word).toNat = 12 from rfl]
  omega

/-- R46's CRC is still that of the payload and the type where the stored chunk is the same. -/
theorem chunkCrcKept (h : Inv s) {t : State} (hsame : storedChunk t = storedChunk s) :
    t.chValid = true → t.chCrc = chunkCrc (chunkData t) t.chType := by
  simp only [storedChunk, Prod.mk.injEq] at hsame
  obtain ⟨hvalid, htype, hlength, hcrc, hpbuf, hdraws⟩ := hsame
  have hdata : chunkData t = chunkData s := by
    rw [chunkData, chunkData, hlength]
    exact readBytes_congr fun i _ => by simp only [readByte, bufferCells, hpbuf, hdraws]
  rw [hvalid, htype, hcrc, hdata]
  exact h.chunkCrcHolds

/-- The invariant reads none of the fields that `OnlyUnconstrainedChanged` lets change. -/
theorem of_onlyUnconstrainedChanged (h : Inv s) {t : State}
    (ht : OnlyUnconstrainedChanged s t) : Inv t := by
  rw [ht]
  exact { h with chunkCrcHolds := h.chunkCrcKept rfl }

/-- R292: at acceptance LAST_OP is the OP byte of the accepted word. -/
protected theorem accept (h : Inv s) (hr : s.rst = .high) (w : Word) : Inv (accept w s) :=
  { h with
    chunkCrcHolds := h.chunkCrcKept rfl
    lastOpOfPending := fun _ => rfl
    resetQuiet := fun hlow => absurd hr hlow }

protected theorem setIbufByte (h : Inv s) {i : Nat} (hi : i < bufferSize s .ibuf) (b : Byte) :
    Inv (setIbufByte i b s) :=
  { h with
    chunkCrcHolds := h.chunkCrcKept rfl
    ibufWf := store_wf h.ibufWf hi }

/-- R266: a commit ends BUSY, and no command produces DECODE_ERROR (R262). -/
protected theorem finish (h : Inv s) {e : ResultCode} (he : e ≠ .decodeError) (info : Word) :
    Inv (finish e info s) :=
  { h with
    chunkCrcHolds := h.chunkCrcKept rfl
    lastOpOfPending := fun hp => Bool.noConfusion hp
    errProduced := he
    resetQuiet := fun _ => rfl }

/-- R41: only an alphabetic code becomes TYPE. -/
protected theorem setType (h : Inv s) {t : Word} (ht : alphaCode t = true) : Inv (setType t s) :=
  { h with
    chunkCrcHolds := h.chunkCrcKept rfl
    typeAlpha := fun _ => ht
    typeUnset := fun hv => Bool.noConfusion hv }

/-- R54, R221: the chunk is replaced whole, by a type, a payload that fits and their CRC. -/
protected theorem setChunk (h : Inv s) {t l c : Word} {p : List Byte} (ht : alphaCode t = true)
    (hl : l.toNat = p.length) (hfits : l.toNat ≤ maxPayload s) (hc : c = chunkCrc p t) :
    Inv (setChunk t l c p s) :=
  { h with
    pbufWf := store_wf h.pbufWf (by rw [Nat.zero_add, ← hl]; exact hfits)
    chunkAlpha := fun _ => ht
    chunkFits := fun _ => hfits
    chunkCrcHolds := fun _ => by rw [chunkData_setChunk hl]; exact hc
    chunkWritten := fun _ => by
      rw [setChunk_pbuf, setChunk_chLength, hl]; exact written_of_store s.pbuf p
    chunkUnset := fun hv => Bool.noConfusion hv }

/-- R47: OUT_LEN is the number of bytes put into OBUF. -/
protected theorem setOutput (h : Inv s) {f : List Byte} {l : Word} (hl : l.toNat = f.length)
    (hmin : 12 ≤ l.toNat) (hfits : l.toNat ≤ bufferSize s .obuf) : Inv (setOutput f l s) :=
  { h with
    chunkCrcHolds := h.chunkCrcKept rfl
    obufWf := store_wf h.obufWf (by rw [Nat.zero_add, ← hl]; exact hfits)
    outLenFits := .inr ⟨hmin, hfits⟩
    outWritten := by rw [setOutput_obuf, setOutput_outLen, hl]; exact written_of_store s.obuf f }

protected theorem setConsumed (h : Inv s) {n : Word} (hmin : 12 ≤ n.toNat)
    (hfits : n.toNat ≤ bufferSize s .ibuf) : Inv (setConsumed n s) :=
  { h with
    chunkCrcHolds := h.chunkCrcKept rfl
    consumedFits := .inr ⟨hmin, hfits⟩ }

/-- R290: a falling rst_n abandons the command in flight. -/
protected theorem assertReset (h : Inv s) : Inv (assertReset s) :=
  { h with
    chunkCrcHolds := h.chunkCrcKept rfl
    lastOpOfPending := fun hp => Bool.noConfusion hp
    resetQuiet := fun _ => rfl }

/-- An edge of clk does not bring rst_n out of low. -/
protected theorem noteEdge (h : Inv s) : Inv (noteEdge s) :=
  { h with
    chunkCrcHolds := h.chunkCrcKept rfl
    resetQuiet := fun hlow => h.resetQuiet fun hhigh => hlow (by rw [noteEdge_rst, hhigh]) }

/-- R290: the reset table meets the invariant for a legal MAX_PAYLOAD. -/
protected theorem resetOf {m : Word} (hm : Config.legalMaxPayload m.toNat = true) (d : Nat) :
    Inv (State.resetOf m d) where
  capsLegal := hm
  ibufWf := empty_wf _
  obufWf := empty_wf _
  pbufWf := empty_wf _
  typeAlpha hv := Bool.noConfusion hv
  typeUnset _ := rfl
  chunkAlpha hv := Bool.noConfusion hv
  chunkFits hv := Bool.noConfusion hv
  chunkCrcHolds hv := Bool.noConfusion hv
  chunkWritten hv := Bool.noConfusion hv
  chunkUnset _ := ⟨rfl, rfl, rfl⟩
  outLenFits := .inl rfl
  outWritten := fun _ hi => absurd hi (Nat.not_lt_zero _)
  consumedFits := .inl rfl
  lastOpOfPending hp := Bool.noConfusion hp
  errProduced := by simp [State.resetOf]
  resetQuiet _ := rfl

protected theorem releaseReset (h : Inv s) : Inv (releaseReset s) :=
  (Inv.resetOf h.capsLegal (s.draws + 1)).of_onlyUnconstrainedChanged rfl

/-! ### Commands, transactions and the host's turn -/

protected theorem succeed (h : Inv s) : Inv (succeed s) := h.finish (by decide) 0

/-- A successful commit keeps the invariant, by what its checks have established. -/
protected theorem succeedsWith {i : Instr} {t : State} (h : Inv s) (hs : succeedsWith i s t) :
    Inv t := by
  cases i with
  | ctFromBytes =>
    obtain ⟨halpha, rfl⟩ := hs
    exact (h.setType halpha).succeed
  | ctFromText =>
    obtain ⟨-, -, halpha, rfl⟩ := hs
    exact (h.setType halpha).succeed
  | crcBuf =>
    obtain ⟨-, rfl⟩ := hs
    have hcrc : Inv (setCrcOut (crc32 (inputBytes s)) s) := h.of_onlyUnconstrainedChanged rfl
    exact hcrc.succeed
  | chunkNew =>
    obtain ⟨htype, hfits, rfl⟩ := hs
    rw [overPayload_eq_false_iff] at hfits
    have hlen : s.inLen.toNat = (inputBytes s).length := (readBytes_length ..).symm
    exact (h.setChunk (h.typeAlpha htype) hlen hfits rfl).succeed
  | chunkSerialize =>
    obtain ⟨hvalid, rfl⟩ := hs
    have hfits : s.chLength.toNat ≤ maxPayload s := h.chunkFits hvalid
    have hsize : (12 + s.chLength).toNat = 12 + s.chLength.toNat := h.frameSize hfits
    have hframe : (12 + s.chLength).toNat =
        (frame s.chLength s.chType (chunkData s) s.chCrc).length := by
      rw [frame_length, chunkData, readBytes_length, hsize]
    have hobuf : bufferSize s .obuf = maxPayload s + 12 := rfl
    exact (h.setOutput hframe (by omega) (by omega)).succeed
  | chunkParse =>
    obtain ⟨hin, hframe, halpha, hcrc, rfl⟩ := hs
    rw [overIbuf_eq_false_iff] at hin
    have hcount : inCount s = s.inLen.toNat := rfl
    have hibuf : bufferSize s .ibuf = maxPayload s + 12 := rfl
    have hfits : (frameLength s).toNat ≤ maxPayload s := by omega
    have hsize : (12 + frameLength s).toNat = 12 + (frameLength s).toNat := h.frameSize hfits
    have hlen : (frameLength s).toNat = (framePayload s).length := (readBytes_length ..).symm
    have hchunk := h.setChunk halpha hlen hfits hcrc.symm
    exact (hchunk.setConsumed (by omega) (hsize ▸ hframe.trans hin)).succeed

/-- Every commit keeps the invariant. -/
protected theorem runPending {t : State} (h : Inv s) (ht : runPending s = .next t) : Inv t := by
  obtain ⟨u, hu, hcases⟩ := runPending_cases s
  cases ht.symm.trans hu
  obtain ⟨e, info, -, he, rfl⟩ | ⟨i, -, hs⟩ := hcases
  · exact h.finish he info
  · exact h.succeedsWith hs

/-- Every bus transaction keeps the invariant while rst_n is high. -/
protected theorem busAccess (h : Inv s) (hr : s.rst = .high) (q : Request) :
    Inv (busAccess q s).1 := by
  obtain heq | ⟨-, heq⟩ | ⟨-, heq | heq | heq | ⟨hi, heq⟩⟩ := busAccess_cases q s
  · rw [heq]; exact h
  · rw [heq]; exact h.of_onlyUnconstrainedChanged rfl
  · rw [heq]; exact h.accept hr _
  · rw [heq]; exact h.of_onlyUnconstrainedChanged rfl
  · rw [heq]; exact h.of_onlyUnconstrainedChanged rfl
  · rw [heq]; exact h.setIbufByte hi _

/-- The host's turn keeps the invariant: it reaches the block only while rst_n is high. -/
protected theorem hostTurn (h : Inv s) : Inv (hostTurn s) := by
  obtain heq | ⟨hr, q, p, heq⟩ := hostTurn_cases s
  · rw [heq]; exact h
  · rw [heq]; exact (h.busAccess hr q).of_onlyUnconstrainedChanged rfl

end Inv

/-- Settles O58, along the six things a step can do. -/
theorem everyStepKeepsTheInvariant : Obligations.EveryStepKeepsTheInvariant := by
  intro s t hinv hstep
  have h : Inv (dropTurn s) := hinv.of_onlyUnconstrainedChanged rfl
  obtain ⟨-, rfl⟩ | ⟨-, -, -, hcommit⟩ | ⟨-, rfl⟩ | ⟨-, -, rfl⟩ | ⟨-, -, rfl⟩ | ⟨-, rfl⟩ :=
    step_cases hstep
  · exact h.hostTurn
  · exact h.runPending hcommit
  · exact h.noteEdge
  · exact h.assertReset
  · exact h.releaseReset
  · exact h

end Sys2Proof.Machine
end

section
/-! PROOFS. Who changes the registers that the engine writes: what every step but a commit and the
end of a reset leaves, what the two kinds of commit write, and from these the writers of ERR and
ERR_INFO, of the validity flags, of each result register and of CAPS (O19, O45, O49, O50). -/

namespace Sys2Proof.Machine

open Sys2Proof.Claims

/-! ### What the host, the clock and a falling rst_n leave -/

/-- From `s` to `t` no register has changed that only the engine writes, and neither has CAPS, OBUF
or PBUF. -/
def EngineSideKept (s t : State) : Prop :=
  t = { s with ovr := t.ovr, lastOp := t.lastOp, pendValid := t.pendValid, pendCmd := t.pendCmd,
               ctIn := t.ctIn, inLen := t.inLen, ibuf := t.ibuf, rst := t.rst,
               host := t.host, turns := t.turns, responses := t.responses }

namespace EngineSideKept

variable {s t u : State}

/-- The definition as a rewriting rule for `t`. -/
protected theorem eq (h : EngineSideKept s t) :
    t = { s with ovr := t.ovr, lastOp := t.lastOp, pendValid := t.pendValid, pendCmd := t.pendCmd,
                 ctIn := t.ctIn, inLen := t.inLen, ibuf := t.ibuf, rst := t.rst,
                 host := t.host, turns := t.turns, responses := t.responses } := h

protected theorem trans (h : EngineSideKept s t) (h' : EngineSideKept t u) :
    EngineSideKept s u := by
  unfold EngineSideKept
  rw [h'.eq, h.eq]

end EngineSideKept

/-- No bus transaction writes a register of the engine (R31, R87). -/
theorem busAccess_engineSideKept (q : Request) (s : State) :
    EngineSideKept s (busAccess q s).1 := by
  obtain h | ⟨-, h⟩ | ⟨-, h | h | h | ⟨-, h⟩⟩ := busAccess_cases q s <;> rw [h] <;> rfl

/-- No turn of the host writes a register of the engine. -/
theorem hostTurn_engineSideKept (s : State) : EngineSideKept s (hostTurn s) := by
  obtain h | ⟨-, q, p, h⟩ := hostTurn_cases s
  · rw [h]; rfl
  · rw [h]; exact (busAccess_engineSideKept q s).trans rfl

/-! ### What a commit writes -/

/-- R266: a successful commit reports OK with the diagnostic value 0. -/
theorem succeedsWith_report {i : Instr} {s t : State} (h : succeedsWith i s t) :
    t.err = .ok ∧ t.errInfo = 0 := by
  cases i with
  | ctFromBytes => obtain ⟨-, rfl⟩ := h; exact ⟨rfl, rfl⟩
  | ctFromText => obtain ⟨-, -, -, rfl⟩ := h; exact ⟨rfl, rfl⟩
  | crcBuf => obtain ⟨-, rfl⟩ := h; exact ⟨rfl, rfl⟩
  | chunkNew => obtain ⟨-, -, rfl⟩ := h; exact ⟨rfl, rfl⟩
  | chunkSerialize => obtain ⟨-, rfl⟩ := h; exact ⟨rfl, rfl⟩
  | chunkParse => obtain ⟨-, -, -, -, rfl⟩ := h; exact ⟨rfl, rfl⟩

/-- A result register that a successful commit changes is an output of its command (R31, R41, R43,
R46, R47). -/
theorem succeedsWith_writers {i : Instr} {s t : State} (h : succeedsWith i s t) :
    (t.typeReg ≠ s.typeReg → i = .ctFromBytes ∨ i = .ctFromText) ∧
    ((t.chType ≠ s.chType ∨ t.chLength ≠ s.chLength ∨ t.chCrc ≠ s.chCrc) →
      i = .chunkNew ∨ i = .chunkParse) ∧
    (t.outLen ≠ s.outLen → i = .chunkSerialize) ∧ (t.consumed ≠ s.consumed → i = .chunkParse) ∧
    (t.crcOut ≠ s.crcOut → i = .crcBuf) := by
  cases i with
  | ctFromBytes => obtain ⟨-, rfl⟩ := h; simp
  | ctFromText => obtain ⟨-, -, -, rfl⟩ := h; simp
  | crcBuf => obtain ⟨-, rfl⟩ := h; simp
  | chunkNew => obtain ⟨-, -, rfl⟩ := h; simp
  | chunkSerialize => obtain ⟨-, rfl⟩ := h; simp
  | chunkParse => obtain ⟨-, -, -, -, rfl⟩ := h; simp

/-- Where TYPE_VALID and CH_VALID stand after a successful commit (R45). -/
theorem succeedsWith_flags {i : Instr} {s t : State} (h : succeedsWith i s t) :
    (t.typeValid = true ↔ s.typeValid = true ∨ i = .ctFromBytes ∨ i = .ctFromText) ∧
    (t.chValid = true ↔ s.chValid = true ∨ i = .chunkNew ∨ i = .chunkParse) := by
  cases i with
  | ctFromBytes => obtain ⟨-, rfl⟩ := h; simp
  | ctFromText => obtain ⟨-, -, -, rfl⟩ := h; simp
  | crcBuf => obtain ⟨-, rfl⟩ := h; simp
  | chunkNew => obtain ⟨-, -, rfl⟩ := h; simp
  | chunkSerialize => obtain ⟨-, rfl⟩ := h; simp
  | chunkParse => obtain ⟨-, -, -, -, rfl⟩ := h; simp

/-- No command writes CAPS, and none touches STATUS.OVR or STATUS.LAST_OP (R36, R38, R50). -/
theorem succeedsWith_statusKept {i : Instr} {s t : State} (h : succeedsWith i s t) :
    t.caps = s.caps ∧ t.ovr = s.ovr ∧ t.lastOp = s.lastOp := by
  cases i with
  | ctFromBytes => obtain ⟨-, rfl⟩ := h; simp
  | ctFromText => obtain ⟨-, -, -, rfl⟩ := h; simp
  | crcBuf => obtain ⟨-, rfl⟩ := h; simp
  | chunkNew => obtain ⟨-, -, rfl⟩ := h; simp
  | chunkSerialize => obtain ⟨-, rfl⟩ := h; simp
  | chunkParse => obtain ⟨-, -, -, -, rfl⟩ := h; simp

/-- A committing edge is an error commit, or the successful commit of the command in flight. -/
theorem commit_outcome {s t : State} (h : step s = .next t) (hn : nextTurn s = .clk true)
    (hp : s.pendValid = true) (hr : s.rst = .high) :
    (∃ e info, e ≠ .ok ∧ t = raise e info (dropTurn s)) ∨
      ∃ i, CommitsOk i s t ∧ succeedsWith i (dropTurn s) t := by
  rw [step_commit hn hp hr] at h
  obtain ⟨u, hu, hcases⟩ := runPending_cases (dropTurn s)
  cases h.symm.trans hu
  obtain ⟨e, info, he, -, ht⟩ | ⟨i, hi, hs⟩ := hcases
  · exact .inl ⟨e, info, he, ht⟩
  · exact .inr ⟨i, ⟨hn, hp, hr, hi, (succeedsWith_report hs).1⟩, hs⟩

/-- Everything a step other than the end of a reset can do to the registers of the engine. -/
theorem step_outcome {s t : State} (h : step s = .next t) (hl : ¬ LeavesReset s) :
    EngineSideKept s t ∨
      ((nextTurn s = .clk true ∧ s.pendValid = true ∧ s.rst = .high) ∧
        ∃ e info, t = raise e info (dropTurn s)) ∨
      ∃ i, CommitsOk i s t ∧ succeedsWith i (dropTurn s) t := by
  have hdrop : EngineSideKept s (dropTurn s) := rfl
  obtain ⟨-, rfl⟩ | ⟨hn, hp, hr, -⟩ | ⟨-, rfl⟩ | ⟨-, -, rfl⟩ | ⟨hn, hr, -⟩ | ⟨-, rfl⟩ :=
    step_cases h
  · exact .inl (hdrop.trans (hostTurn_engineSideKept _))
  · obtain ⟨e, info, -, ht⟩ | hok := commit_outcome h hn hp hr
    · exact .inr (.inl ⟨⟨hn, hp, hr⟩, e, info, ht⟩)
    · exact .inr (.inr hok)
  · exact .inl rfl
  · exact .inl rfl
  · exact absurd ⟨hn, hr⟩ hl
  · exact .inl hdrop

/-- R290: the step out of reset takes the reset table. -/
theorem step_leavesReset {s t : State} (h : step s = .next t) (hl : LeavesReset s) :
    t = releaseReset (dropTurn s) := by
  obtain ⟨hn, hr⟩ := hl
  simp only [step, hn, resetRise, dropTurn_rst, hr] at h
  cases h
  rfl

/-- A commit that leaves ERR = OK has passed every check of its command. -/
theorem succeedsWith_of_commitsOk {i : Instr} {s t : State} (h : step s = .next t)
    (hok : CommitsOk i s t) : succeedsWith i (dropTurn s) t := by
  obtain ⟨hn, hp, hr, hi, herr⟩ := hok
  obtain ⟨e, info, he, rfl⟩ | ⟨j, ⟨-, -, -, hj, -⟩, hs⟩ := commit_outcome h hn hp hr
  · exact absurd herr he
  · cases hi.symm.trans hj
    exact hs

/-- Settles O45. -/
theorem resultCodeChangesOnlyAtACommit : Obligations.ResultCodeChangesOnlyAtACommit := by
  intro s t h hl
  refine ⟨fun hne => ?_, fun hn hp hr herr => ?_⟩
  · obtain hkept | ⟨hcommit, -⟩ | ⟨i, ⟨hn, hp, hr, -, -⟩, -⟩ := step_outcome h hl
    · rw [hkept.eq] at hne
      exact absurd hne (by simp)
    · exact hcommit
    · exact ⟨hn, hp, hr⟩
  · obtain ⟨e, info, he, rfl⟩ | ⟨i, -, hs⟩ := commit_outcome h hn hp hr
    · exact absurd herr he
    · exact (succeedsWith_report hs).2

/-! ### The result registers -/

/-- Settles O50. -/
theorem resultRegistersHaveTheirWriters : Obligations.ResultRegistersHaveTheirWriters := by
  intro s t h hl
  obtain hkept | ⟨-, e, info, rfl⟩ | ⟨i, hok, hs⟩ := step_outcome h hl
  · rw [hkept.eq]; simp
  · simp
  · obtain ⟨htype, hchunk, hout, hconsumed, hcrc⟩ := succeedsWith_writers hs
    have hby {j : Instr} (hj : i = j) : CommitsOk j s t := hj ▸ hok
    exact ⟨fun hne => (htype hne).imp hby hby, fun hne => (hchunk hne).imp hby hby,
      fun hne => hby (hout hne), fun hne => hby (hconsumed hne), fun hne => hby (hcrc hne)⟩

/-! ### The validity flags (R45) -/

/-- A flag of the engine that the successful commits of two commands set, and that no commit clears,
is 1 after a step exactly if it was before or the step is such a commit. -/
theorem flag_after_step {f : State → Bool} {i j : Instr}
    (hkept : ∀ {s t : State}, EngineSideKept s t → f t = f s)
    (hraise : ∀ e info s, f (raise e info s) = f s)
    (hset : ∀ {k : Instr} {s t : State}, succeedsWith k s t →
      (f t = true ↔ f s = true ∨ k = i ∨ k = j))
    {s t : State} (h : step s = .next t) (hl : ¬ LeavesReset s) :
    f t = true ↔ f s = true ∨ CommitsOk i s t ∨ CommitsOk j s t := by
  have hdrop : f (dropTurn s) = f s := hkept rfl
  constructor
  · intro hf
    obtain hk | ⟨-, e, info, rfl⟩ | ⟨k, hok, hs⟩ := step_outcome h hl
    · exact .inl (hkept hk ▸ hf)
    · rw [hraise, hdrop] at hf
      exact .inl hf
    · rw [hset hs, hdrop] at hf
      have hby {j : Instr} (hj : k = j) : CommitsOk j s t := hj ▸ hok
      exact hf.imp_right (Or.imp hby hby)
  · rintro (hf | hok | hok)
    · obtain hk | ⟨-, e, info, rfl⟩ | ⟨k, -, hs⟩ := step_outcome h hl
      · rw [hkept hk, hf]
      · rw [hraise, hdrop, hf]
      · exact (hset hs).mpr (.inl (hdrop.trans hf))
    · exact (hset (succeedsWith_of_commitsOk h hok)).mpr (.inr (.inl rfl))
    · exact (hset (succeedsWith_of_commitsOk h hok)).mpr (.inr (.inr rfl))

/-- The bits of a word with one bit at most. -/
theorem getLsbD_bitAt (k : Nat) (b : Bool) {i : Nat} (hi : i < 32) :
    (bitAt k b).getLsbD i = (b && decide (i = k)) := by
  cases b with
  | false => simp [bitAt]
  | true =>
    simp only [bitAt, if_true, BitVec.getLsbD_shiftLeft, show (1 : Word) = 1#32 from rfl,
      BitVec.getLsbD_one]
    rw [Bool.eq_iff_iff]
    simp only [Bool.and_eq_true, Bool.not_eq_true', decide_eq_true_eq, decide_eq_false_iff_not,
      Bool.true_and]
    omega

/-- Bit 8 of the property word is the validity flag (R150). -/
theorem props_getLsbD_8 (t : Word) (v : Bool) : (props t v).getLsbD 8 = v := by
  cases v with
  | false => simp [props]
  | true =>
    have hlt : 8 < 32 := by decide
    simp only [props, if_true, BitVec.getLsbD_or, getLsbD_bitAt _ _ hlt]
    simp

/-- Settles O49. -/
theorem validityFlagsSetOnceAndKept : Obligations.ValidityFlagsSetOnceAndKept := by
  refine ⟨fun s t h hl => ⟨?_, ?_⟩, fun s t h hl => ?_, fun s => ?_⟩
  · exact flag_after_step (f := State.typeValid) (fun hk => by rw [hk.eq]) (fun _ _ _ => rfl)
      (fun hs => (succeedsWith_flags hs).1) h hl
  · exact flag_after_step (f := State.chValid) (fun hk => by rw [hk.eq]) (fun _ _ _ => rfl)
      (fun hs => (succeedsWith_flags hs).2) h hl
  · rw [step_leavesReset h hl]
    exact ⟨rfl, rfl⟩
  · exact ⟨props_getLsbD_8 _ _, props_getLsbD_8 _ _⟩

/-! ### CAPS (R50) -/

/-- No step, reset included, changes CAPS. -/
theorem step_caps {s t : State} (h : step s = .next t) : t.caps = s.caps := by
  by_cases hl : LeavesReset s
  · rw [step_leavesReset h hl]; rfl
  · obtain hkept | ⟨-, e, info, rfl⟩ | ⟨i, -, hs⟩ := step_outcome h hl
    · rw [hkept.eq]
    · rfl
    · exact (succeedsWith_statusKept hs).1

/-- Settles O19. -/
theorem capsIsTheConstantMaxPayload : Obligations.CapsIsTheConstantMaxPayload := by
  intro s
  have hread : readReg s .caps = BitVec.ofNat 32 (maxPayload s) := by simp [readReg, maxPayload]
  refine ⟨?_, rfl, rfl, rfl, fun t h => step_caps h⟩
  rw [busAccess_readReg (r := .caps) rfl rfl rfl, hread]
  rfl

end Sys2Proof.Machine
end

section
/-! PROOFS. Who changes BUSY, OVR and LAST_OP: the five things a step can do to them, with the
request that does it, and from these the lives of BUSY and of OVR (O44, O52). -/

namespace Sys2Proof.Machine

open Sys2Proof.Claims

/-- What a step from `s` to `t` does to the control fields of STATUS. -/
inductive StatusMove (s t : State) : Prop where
  /-- BUSY, LAST_OP and OVR stay. -/
  | kept (hbusy : t.pendValid = s.pendValid) (hlast : t.lastOp = s.lastOp) (hovr : t.ovr = s.ovr)
  /-- The host's write is dropped (R295). -/
  | dropped (q : Request) (hturn : nextTurn s = .host) (hhigh : s.rst = .high)
      (hbusy : s.pendValid = true) (hnext : s.nextRequest q) (hdrop : q.droppedWhileBusy s)
      (heq : (t.pendValid, t.lastOp, t.ovr) = (true, s.lastOp, true))
  /-- The host's write to CMD is accepted (R292). -/
  | accepted (q : Request) (hturn : nextTurn s = .host) (hhigh : s.rst = .high)
      (hidle : s.pendValid = false) (hnext : s.nextRequest q) (hcmd : q.writesCmd)
      (heq : (t.pendValid, t.pendCmd, t.lastOp, t.ovr) =
        (true, q.wdata, q.wdata.extractLsb' 0 8, false))
  /-- The command in flight commits or is abandoned (R290, R293). -/
  | ended (hturn : nextTurn s = .clk true ∨ nextTurn s = .rstFall) (hhigh : s.rst = .high)
      (heq : (t.pendValid, t.lastOp, t.ovr) = (false, s.lastOp, s.ovr))
  /-- The block comes out of reset (R290). -/
  | released (hreset : LeavesReset s) (heq : (t.pendValid, t.ovr) = (false, false))

/-- A transaction of the host at the head of its list moves STATUS by R292 and R295 only. -/
theorem StatusMove.of_transact {s : State} {q : Request} {rest : List HostOp}
    (hn : nextTurn s = .host) (hr : s.rst = .high) (hh : s.host = .bus q :: rest) :
    StatusMove s (setHost rest (transact q (dropTurn s))) := by
  rw [transact]
  obtain h | ⟨hp, hdrop, h⟩ | ⟨hp, ⟨hcmd, h⟩ | h | h | ⟨-, h⟩⟩ := busAccess_effect q (dropTurn s)
  · rw [h]; exact .kept (by simp) (by simp) (by simp)
  · rw [h]; exact .dropped q hn hr hp ⟨rest, hh⟩ hdrop (by simpa using hp)
  · rw [h]; exact .accepted q hn hr hp ⟨rest, hh⟩ hcmd (by simp)
  · rw [h]; exact .kept (by simp) (by simp) (by simp)
  · rw [h]; exact .kept (by simp) (by simp) (by simp)
  · rw [h]; exact .kept (by simp) (by simp) (by simp)

/-- A turn of the host moves STATUS by the request at the head of its list only. -/
theorem StatusMove.of_hostTurn {s : State} (hn : nextTurn s = .host) :
    StatusMove s (hostTurn (dropTurn s)) := by
  obtain h | ⟨hr, q, rest, hh, h⟩ | ⟨r, p, h⟩ := hostTurn_effect (dropTurn s)
  · rw [h]; exact .kept rfl rfl rfl
  · rw [h]; exact .of_transact hn hr hh
  · rw [h]; exact .kept rfl rfl rfl

/-- A commit ends BUSY and leaves LAST_OP and OVR (R36, R38, R266). -/
theorem runPending_status {s t : State} (h : runPending s = .next t) :
    (t.pendValid, t.lastOp, t.ovr) = (false, s.lastOp, s.ovr) := by
  obtain ⟨u, hu, hcases⟩ := runPending_cases s
  cases h.symm.trans hu
  obtain ⟨e, info, -, -, rfl⟩ | ⟨i, -, hs⟩ := hcases
  · rfl
  · obtain ⟨-, hovr, hlast⟩ := succeedsWith_statusKept hs
    rw [succeedsWith_pendValid hs, hovr, hlast]

/-- Everything a step can do to the control fields of STATUS. -/
theorem step_statusMove {s t : State} (h : step s = .next t) : StatusMove s t := by
  obtain ⟨hn, rfl⟩ | ⟨hn, -, hr, hrun⟩ | ⟨-, rfl⟩ | ⟨hn, hr, rfl⟩ | ⟨hn, hr, rfl⟩ | ⟨-, rfl⟩ :=
    step_cases h
  · exact .of_hostTurn hn
  · exact .ended (.inl hn) hr (runPending_status (s := dropTurn s) hrun)
  · exact .kept rfl rfl rfl
  · exact .ended (.inr hn) hr rfl
  · exact .released ⟨hn, hr⟩ rfl
  · exact .kept rfl rfl rfl

/-- A bit is not both 0 and 1. -/
theorem bit_absurd {b : Bool} {P : Prop} (h0 : b = false) (h1 : b = true) : P :=
  absurd h1 (ne_true_of_eq_false h0)

/-- Settles O44, along the five moves of STATUS. -/
theorem busyFollowsTheCommand : Obligations.BusyFollowsTheCommand := by
  intro s t h
  cases step_statusMove h with
  | kept hbusy hlast _ =>
    exact ⟨fun h0 h1 => bit_absurd h0 (hbusy ▸ h1), fun h1 h0 => bit_absurd (hbusy ▸ h0) h1,
      fun hne => absurd hlast hne⟩
  | dropped _ _ _ hbusy _ _ heq =>
    simp only [Prod.mk.injEq] at heq
    obtain ⟨hbusy', hlast, -⟩ := heq
    exact ⟨fun h0 _ => bit_absurd h0 hbusy, fun _ h0 => bit_absurd h0 hbusy',
      fun hne => absurd hlast hne⟩
  | accepted q hturn hhigh hidle hnext hcmd heq =>
    simp only [Prod.mk.injEq] at heq
    obtain ⟨hbusy, hpend, hlast, hovr⟩ := heq
    exact ⟨fun _ _ => ⟨hturn, hhigh, q, hnext, hcmd, hpend, hlast, hovr⟩,
      fun h1 _ => bit_absurd hidle h1, fun _ => .inl ⟨hidle, hbusy⟩⟩
  | ended hturn hhigh heq =>
    simp only [Prod.mk.injEq] at heq
    obtain ⟨hdone, hlast, -⟩ := heq
    refine ⟨fun _ h1 => bit_absurd hdone h1, fun _ _ => ?_, fun hne => absurd hlast hne⟩
    exact hturn.elim (fun hn => .inl ⟨hn, hhigh⟩) (fun hn => .inr (.inl ⟨hn, hhigh⟩))
  | released hreset heq =>
    simp only [Prod.mk.injEq] at heq
    obtain ⟨hdone, -⟩ := heq
    exact ⟨fun _ h1 => bit_absurd hdone h1, fun _ _ => .inr (.inr hreset), fun _ => .inr hreset⟩

/-- Settles O52, along the five moves of STATUS. -/
theorem overrunIsSticky : Obligations.OverrunIsSticky := by
  intro s t h
  have hengine (hturn : nextTurn s = .host) : nextTurn s = .clk true → t.ovr = s.ovr :=
    fun hclk => Turn.noConfusion (hturn.symm.trans hclk)
  cases step_statusMove h with
  | kept _ _ hovr =>
    exact ⟨fun h0 h1 => bit_absurd h0 (hovr ▸ h1), fun h1 h0 => bit_absurd (hovr ▸ h0) h1,
      fun _ => hovr⟩
  | dropped q hturn hhigh hbusy hnext hdrop heq =>
    simp only [Prod.mk.injEq] at heq
    obtain ⟨-, -, hovr⟩ := heq
    exact ⟨fun _ _ => ⟨hturn, hhigh, hbusy, q, hnext, hdrop⟩, fun _ h0 => bit_absurd h0 hovr,
      hengine hturn⟩
  | accepted q hturn hhigh hidle hnext hcmd heq =>
    simp only [Prod.mk.injEq] at heq
    obtain ⟨hbusy, -, -, hovr⟩ := heq
    exact ⟨fun _ h1 => bit_absurd hovr h1,
      fun _ _ => .inl ⟨hturn, hhigh, hidle, hbusy, q, hnext, hcmd⟩, hengine hturn⟩
  | ended _ _ heq =>
    simp only [Prod.mk.injEq] at heq
    obtain ⟨-, -, hovr⟩ := heq
    exact ⟨fun h0 h1 => bit_absurd h0 (hovr ▸ h1), fun h1 h0 => bit_absurd (hovr ▸ h0) h1,
      fun _ => hovr⟩
  | released hreset heq =>
    simp only [Prod.mk.injEq] at heq
    obtain ⟨-, hovr⟩ := heq
    exact ⟨fun _ h1 => bit_absurd hovr h1, fun _ _ => .inr hreset,
      fun hclk => Turn.noConfusion (hclk.symm.trans hreset.1)⟩

end Sys2Proof.Machine
end

section
/-! PROOFS. What the commands read of IBUF: nothing at or beyond IN_LEN, so a command run on other
bytes there does the same (O53). -/

namespace Sys2Proof.Machine

/-- The state with another memory in IBUF. -/
def withIbuf (m : Memory) (s : State) : State := { s with ibuf := m }

/-- A change of the next state of an outcome. -/
def mapNext (f : State → State) :
    Host.Outcome State Fault Refusal → Host.Outcome State Fault Refusal
  | .next s => .next (f s)
  | .fault r => .fault r
  | .refused r => .refused r

/-- A check that two runs share: it is enough that their outcomes correspond on either side. -/
theorem ite_mapNext {c : Prop} [Decidable c] {f : State → State}
    {a a' b b' : Host.Outcome State Fault Refusal} (ha : c → a' = mapNext f a)
    (hb : ¬ c → b' = mapNext f b) : (if c then a' else b') = mapNext f (if c then a else b) := by
  rw [apply_ite (mapNext f)]
  exact ite_congr rfl ha hb

/-- The memory `m` holds the bytes of IBUF below IN_LEN. -/
def SameInput (s : State) (m : Memory) : Prop :=
  ∀ k, k < inCount s → readByte (withIbuf m s) .ibuf k = readByte s .ibuf k

/-- The type construction does not look at IBUF. -/
theorem constructType_withIbuf (t : Word) (m : Memory) (s : State) :
    constructType t (withIbuf m s) = withIbuf m (constructType t s) := by
  unfold constructType
  cases firstNonAlpha (bytesBE32 t) <;> rfl

/-- CHUNK_SERIALIZE reads PBUF, not IBUF. -/
theorem chunkData_withIbuf (m : Memory) (s : State) : chunkData (withIbuf m s) = chunkData s :=
  readBytes_congr fun _ _ => rfl

namespace SameInput

variable {s : State} {m : Memory}

/-! ### The operands below IN_LEN -/

theorem readBytes_eq (h : SameInput s m) {k n : Nat} (hkn : k + n ≤ inCount s) :
    readBytes (withIbuf m s) .ibuf k n = readBytes s .ibuf k n :=
  readBytes_congr fun i hi => h (k + i) (by omega)

theorem readWord_eq (h : SameInput s m) {k : Nat} (hk : k + 4 ≤ inCount s) :
    readWord (withIbuf m s) .ibuf k = readWord s .ibuf k := by
  rw [readWord, h k (by omega), h (k + 1) (by omega), h (k + 2) (by omega), h (k + 3) (by omega)]
  rfl

theorem inputBytes_eq (h : SameInput s m) : inputBytes (withIbuf m s) = inputBytes s :=
  h.readBytes_eq (Nat.zero_add _).le

theorem frameLength_eq (h : SameInput s m) (hn : 12 ≤ inCount s) :
    frameLength (withIbuf m s) = frameLength s :=
  h.readWord_eq (by omega)

theorem frameType_eq (h : SameInput s m) (hn : 12 ≤ inCount s) :
    frameType (withIbuf m s) = frameType s :=
  h.readWord_eq (by omega)

theorem framePayload_eq (h : SameInput s m) (hn : 12 + (frameLength s).toNat ≤ inCount s) :
    framePayload (withIbuf m s) = framePayload s := by
  rw [framePayload, h.frameLength_eq (by omega)]
  exact h.readBytes_eq (by omega)

theorem frameCrc_eq (h : SameInput s m) (hn : 12 + (frameLength s).toNat ≤ inCount s) :
    frameCrc (withIbuf m s) = frameCrc s := by
  rw [frameCrc, h.frameLength_eq (by omega)]
  exact h.readWord_eq (by omega)

/-! ### The commands -/

theorem execCtFromText_eq (h : SameInput s m) :
    execCtFromText (withIbuf m s) = mapNext (withIbuf m) (execCtFromText s) := by
  refine ite_mapNext (fun _ => rfl) fun _ =>
    ite_mapNext (fun _ => rfl) fun (hn : ¬ inCount s < 4) => ?_
  have htext : textCode (withIbuf m s) = textCode s := h.readWord_eq (by omega)
  rw [htext, constructType_withIbuf]
  rfl

theorem execCrcBuf_eq (h : SameInput s m) :
    execCrcBuf (withIbuf m s) = mapNext (withIbuf m) (execCrcBuf s) := by
  refine ite_mapNext (fun _ => rfl) fun _ => ?_
  rw [h.inputBytes_eq]
  rfl

theorem execChunkNew_eq (h : SameInput s m) :
    execChunkNew (withIbuf m s) = mapNext (withIbuf m) (execChunkNew s) := by
  refine ite_mapNext (fun _ => rfl) fun _ => ite_mapNext (fun _ => rfl) fun _ => ?_
  rw [h.inputBytes_eq]
  rfl

/-- The frame's fields are read only after the checks that put them below IN_LEN (R216, R218). -/
theorem execChunkParse_eq (h : SameInput s m) :
    execChunkParse (withIbuf m s) = mapNext (withIbuf m) (execChunkParse s) := by
  refine ite_mapNext (fun _ => rfl) fun _ =>
    ite_mapNext (fun _ => rfl) fun (hn : ¬ inCount s < 12) => ?_
  rw [h.frameLength_eq (by omega), h.frameType_eq (by omega)]
  cases firstNonAlpha (bytesBE32 (frameType s)) with
  | some i => rfl
  | none =>
    refine ite_mapNext (fun _ => rfl) fun _ =>
      ite_mapNext (fun _ => rfl) fun (hlen : ¬ inCount s - 12 < (frameLength s).toNat) => ?_
    have hin : 12 + (frameLength s).toNat ≤ inCount s := by omega
    rw [h.framePayload_eq hin, h.frameCrc_eq hin]
    exact ite_mapNext (fun _ => rfl) fun _ => rfl

/-- Every command does the same on any IBUF with the same input. -/
theorem exec_eq (h : SameInput s m) (i : Instr) :
    exec i (withIbuf m s) = mapNext (withIbuf m) (exec i s) := by
  cases i with
  | ctFromBytes => exact congrArg _ (constructType_withIbuf s.ctIn m s)
  | ctFromText => exact h.execCtFromText_eq
  | crcBuf => exact h.execCrcBuf_eq
  | chunkNew => exact h.execChunkNew_eq
  | chunkSerialize =>
    refine ite_mapNext (fun _ => rfl) fun _ => ?_
    rw [chunkData_withIbuf]
    rfl
  | chunkParse => exact h.execChunkParse_eq

end SameInput

/-- Settles O53. -/
theorem commandsReadOnlyBelowInLen : Obligations.CommandsReadOnlyBelowInLen := by
  intro i s t m hsame ht
  have h : SameInput s m := hsame
  exact (h.exec_eq i).trans (congrArg (mapNext (withIbuf m)) ht)

end Sys2Proof.Machine
end

section
/-! PROOFS. The read side of the register map (O9). -/

namespace Sys2Proof.Machine

/-- Settles O9: the list is the register map of R31, each register at its own address. -/
theorem registerMapReads : Obligations.RegisterMapReads := by
  intro s a v hmem
  obtain ⟨r, -, hr⟩ : ∃ r, r ∈ allRegs ∧ (regAddr r, readReg s r) = (a, v) := List.mem_map.mp hmem
  cases hr
  exact busAccess_readReg rfl rfl rfl s

end Sys2Proof.Machine
end

section
/-! PROOFS. What the bus answers, by window and shape: the windows of the address space, the refusals
and the reads (O10, O13, O15, O16, O17), and the fields of a buffer (O60). -/

namespace Sys2Proof.Machine

/-! ### The address space (R81) -/

/-- The two bits that choose the window, as a number. -/
theorem extractLsb'_30_2_eq_iff (a : Word) (n : BitVec 2) :
    a.extractLsb' 30 2 = n ↔ a.toNat / 2 ^ 30 = n.toNat := by
  rw [← BitVec.toNat_inj, BitVec.extractLsb'_toNat, Nat.shiftRight_eq_div_pow,
    Nat.mod_eq_of_lt (by omega)]

/-- The window of an address, by its quarter of the address space. -/
theorem windowOf_eq (a : Word) :
    windowOf a =
      if a.toNat / 2 ^ 30 = 0 then none
      else if a.toNat / 2 ^ 30 = 1 then some .ibuf
      else if a.toNat / 2 ^ 30 = 2 then some .obuf
      else some .pbuf := by
  simp only [windowOf, extractLsb'_30_2_eq_iff]
  rfl

/-- Settles O15. -/
theorem addressWindows : Obligations.AddressWindows := by
  intro a
  have hlt := a.isLt
  rw [windowOf_eq, offsetOf, BitVec.extractLsb'_toNat, Nat.shiftRight_zero]
  refine ⟨?_, ?_, ?_, ?_, rfl⟩
  all_goals split_ifs <;> simp <;> omega

/-! ### Refusals (R80, R86, R88) -/

/-- A misshapen access to REG is refused (R86). -/
theorem busAccess_misshapenReg {q : Request} (hw : windowOf q.addr = none)
    (hl : regLegal q = false) (s : State) : busAccess q s = (s, slvErr) := by
  simp [busAccess, hw, hl]

/-- A misshapen access to a buffer is refused (R88). -/
theorem busAccess_misshapenBuf {q : Request} {b : Buffer} {s : State}
    (hw : windowOf q.addr = some b) (hl : bufLegal s b q = false) :
    busAccess q s = (s, slvErr) := by
  simp [busAccess, hw, hl]

/-- A bus transaction is refused without effect, or answered OKAY. -/
theorem busAccess_refused_or_okay (q : Request) (s : State) :
    busAccess q s = (s, slvErr) ∨ (busAccess q s).2.resp = .okay := by
  unfold busAccess
  split
  · split
    · unfold regAccess
      split <;> exact .inr rfl
    · exact .inl rfl
  · split
    · unfold bufAccess
      split
      · exact .inr rfl
      · exact .inr rfl
      · exact .inl rfl
      · exact .inl rfl
    · exact .inl rfl

/-- Settles O10. -/
theorem misshapenRegisterAccess : Obligations.MisshapenRegisterAccess := by
  intro s q hw hshape
  have hl : regLegal q = false := by
    rw [regLegal, Bool.and_eq_false_iff]
    exact hshape.imp decide_eq_false decide_eq_false
  exact busAccess_misshapenReg hw hl s

/-- Settles O13. -/
theorem bufferAccessShape : Obligations.BufferAccessShape := by
  intro s b q hw
  refine ⟨fun hshape => ?_, fun hs ho hk => busAccess_readBuf hk hs hw ho⟩
  have hl : bufLegal s b q = false := by
    rw [bufLegal, Bool.and_eq_false_iff]
    exact hshape.imp decide_eq_false fun ho => decide_eq_false ho.not_gt
  exact busAccess_misshapenBuf hw hl

theorem EngineSideKept.err_eq {s t : State} (h : EngineSideKept s t) : t.err = s.err := by
  rw [h.eq]

theorem EngineSideKept.errInfo_eq {s t : State} (h : EngineSideKept s t) :
    t.errInfo = s.errInfo := by
  rw [h.eq]

/-- Settles O17: a refusal has no effect, and ERR and ERR_INFO are the engine's registers. -/
theorem busErrorsChangeNothing : Obligations.BusErrorsChangeNothing := by
  intro s q
  have hkept := busAccess_engineSideKept q s
  refine ⟨fun herr => ?_, hkept.err_eq, hkept.errInfo_eq⟩
  obtain h | hok := busAccess_refused_or_okay q s
  · exact h
  · exact Resp.noConfusion (hok.symm.trans herr)

/-- Settles O16. -/
theorem readsHaveNoSideEffect : Obligations.ReadsHaveNoSideEffect := by
  intro s q hk
  have hread : (busAccess q s).1 = s := busAccess_read q s hk
  exact ⟨hread, by rw [hread], by rw [transact, hread]; rfl⟩

/-! ### Fields and ranges of a buffer (R13, R90) -/

theorem readWord_eq_iff (s : State) (b : Buffer) (k : Nat) (v : Word) :
    readWord s b k = v ↔ readBytes s b k 4 = bytesBE32 v := by
  rw [← bytesBE32_readWord]
  exact ⟨congrArg bytesBE32, fun h => bytesBE32_injective h⟩

/-- Settles O60. -/
theorem bufferFieldsAreBigEndian : Obligations.BufferFieldsAreBigEndian := by
  refine ⟨fun s b k v => ⟨?_, readWord_eq_iff s b k v⟩, fun s b k n => ⟨readBytes_length s b k n,
    fun i hi => ?_⟩⟩
  · rw [readWord_eq_iff]
    simp [readBytes, bytesBE32]
  · rw [List.getElem?_eq_getElem (by simpa using hi), readBytes_getElem s b k n i hi]

end Sys2Proof.Machine
end

section
/-! PROOFS. The frame of a commit: the outputs that each command may change, and no more (O42), and
who changes a byte of a buffer (O51). -/

namespace Sys2Proof.Machine

open Sys2Proof.Claims

/-! ### The outputs of each command (R112) -/

/-- From `s` to `t` nothing has changed but the report of a commit (R266) and the outputs of the
command `i`. -/
def OnlyOutputsChanged (i : Instr) (s t : State) : Prop :=
  match i with
  | .ctFromBytes | .ctFromText =>
    t = { finish t.err t.errInfo s with typeReg := t.typeReg, typeValid := t.typeValid }
  | .crcBuf => t = { finish t.err t.errInfo s with crcOut := t.crcOut }
  | .chunkNew =>
    t = { finish t.err t.errInfo s with
      chType := t.chType, chValid := t.chValid, chLength := t.chLength, chCrc := t.chCrc,
      pbuf := t.pbuf }
  | .chunkSerialize => t = { finish t.err t.errInfo s with outLen := t.outLen, obuf := t.obuf }
  | .chunkParse =>
    t = { finish t.err t.errInfo s with
      chType := t.chType, chValid := t.chValid, chLength := t.chLength, chCrc := t.chCrc,
      pbuf := t.pbuf, consumed := t.consumed }

theorem raise_onlyOutputsChanged (i : Instr) (e : ResultCode) (info : Word) (s : State) :
    OnlyOutputsChanged i s (raise e info s) := by
  cases i <;> rfl

theorem succeedsWith_onlyOutputsChanged {i : Instr} {s t : State} (h : succeedsWith i s t) :
    OnlyOutputsChanged i s t := by
  cases i with
  | ctFromBytes => obtain ⟨-, rfl⟩ := h; rfl
  | ctFromText => obtain ⟨-, -, -, rfl⟩ := h; rfl
  | crcBuf => obtain ⟨-, rfl⟩ := h; rfl
  | chunkNew => obtain ⟨-, -, rfl⟩ := h; rfl
  | chunkSerialize => obtain ⟨-, rfl⟩ := h; rfl
  | chunkParse => obtain ⟨-, -, -, -, rfl⟩ := h; rfl

theorem exec_onlyOutputsChanged {i : Instr} {s t : State} (h : exec i s = .next t) :
    OnlyOutputsChanged i s t := by
  obtain ⟨u, hu, hcases⟩ := exec_cases i s
  cases h.symm.trans hu
  obtain ⟨e, info, -, -, -, rfl⟩ | hs := hcases
  · exact raise_onlyOutputsChanged i e info s
  · exact succeedsWith_onlyOutputsChanged hs

/-- Settles O42: each field is an output of the command or stays. -/
theorem commandsWriteOnlyTheirOutputs : Obligations.CommandsWriteOnlyTheirOutputs := by
  intro i s t ht
  have h := exec_onlyOutputsChanged ht
  cases i <;> (simp only [OnlyOutputsChanged] at h; rw [h]; simp)

/-! ### The bytes of a buffer (R84) -/

/-- A byte reads the same where nothing has stored into its buffer or drawn it anew. -/
theorem readByte_congr {s t : State} {b : Buffer} (hcells : bufferCells t b = bufferCells s b)
    (hdraws : t.draws = s.draws) (i : Nat) : readByte t b i = readByte s b i := by
  rw [readByte, readByte, hcells, hdraws]

/-- Beyond the bytes stored at the start of a buffer every byte reads as before. -/
theorem readByte_of_store_beyond {s t : State} {b : Buffer} {bs : List Byte}
    (hcells : bufferCells t b = Memory.store (bufferCells s b) 0 bs) (hdraws : t.draws = s.draws)
    {i : Nat} (hi : bs.length ≤ i) : readByte t b i = readByte s b i := by
  rw [readByte, readByte, hcells, hdraws, lookup_store_outside _ _ _ _ (by omega)]

theorem readByte_setIbufByte (k : Nat) (b : Byte) (s : State) (i : Nat) :
    readByte (setIbufByte k b s) .ibuf i = if i = k then b else readByte s .ibuf i := by
  have hcells : bufferCells (setIbufByte k b s) .ibuf = Memory.store s.ibuf k [b] := rfl
  by_cases hi : i = k
  · have hin := lookup_store_inside s.ibuf k [b] 0 (by simp)
    rw [if_pos hi, readByte, hcells, hi]
    exact congrArg (Option.getD · _) hin
  · rw [if_neg hi, readByte, hcells, lookup_store_outside _ _ _ _ (by simp; omega)]
    rfl

/-! ### The bytes that a commit stores -/

section

variable {i : Instr} {s t : State}

theorem OnlyOutputsChanged.draws_eq (h : OnlyOutputsChanged i s t) : t.draws = s.draws := by
  cases i <;> exact (congrArg State.draws h :)

theorem OnlyOutputsChanged.readByte_ibuf (h : OnlyOutputsChanged i s t) (k : Nat) :
    readByte t .ibuf k = readByte s .ibuf k := by
  have hcells : bufferCells t .ibuf = bufferCells s .ibuf := by
    cases i <;> exact (congrArg State.ibuf h :)
  exact readByte_congr hcells h.draws_eq k

theorem OnlyOutputsChanged.readByte_obuf (h : OnlyOutputsChanged i s t)
    (hi : i ≠ .chunkSerialize) (k : Nat) : readByte t .obuf k = readByte s .obuf k := by
  have hcells : bufferCells t .obuf = bufferCells s .obuf := by
    cases i with
    | chunkSerialize => exact absurd rfl hi
    | _ => exact (congrArg State.obuf h :)
  exact readByte_congr hcells h.draws_eq k

theorem OnlyOutputsChanged.readByte_pbuf (h : OnlyOutputsChanged i s t)
    (hi : ¬ (i = .chunkNew ∨ i = .chunkParse)) (k : Nat) :
    readByte t .pbuf k = readByte s .pbuf k := by
  have hcells : bufferCells t .pbuf = bufferCells s .pbuf := by
    cases i with
    | chunkNew => exact absurd (.inl rfl) hi
    | chunkParse => exact absurd (.inr rfl) hi
    | _ => exact (congrArg State.pbuf h :)
  exact readByte_congr hcells h.draws_eq k

/-- A command that makes the current chunk stores its payload at the start of PBUF (R54). -/
theorem succeedsWith_storesPayload (h : succeedsWith i s t)
    (hi : i = .chunkNew ∨ i = .chunkParse) :
    ∃ p, bufferCells t .pbuf = Memory.store (bufferCells s .pbuf) 0 p ∧
      p.length = t.chLength.toNat := by
  obtain rfl | rfl := hi
  · obtain ⟨-, -, rfl⟩ := h
    exact ⟨inputBytes s, rfl, readBytes_length ..⟩
  · obtain ⟨-, -, -, -, rfl⟩ := h
    exact ⟨framePayload s, rfl, readBytes_length ..⟩

/-- CHUNK_SERIALIZE stores OUT_LEN bytes at the start of OBUF (R47). -/
theorem succeedsWith_storesFrame (hinv : Inv s) (h : succeedsWith .chunkSerialize s t) :
    ∃ f, bufferCells t .obuf = Memory.store (bufferCells s .obuf) 0 f ∧
      f.length = t.outLen.toNat := by
  obtain ⟨hvalid, rfl⟩ := h
  refine ⟨_, rfl, ?_⟩
  have hsize : (12 + s.chLength).toNat = 12 + s.chLength.toNat :=
    hinv.frameSize (hinv.chunkFits hvalid)
  rw [frame_length, chunkData, readBytes_length]
  exact hsize.symm

/-- No commit writes IBUF (R83). -/
theorem runPending_ibufByte (h : runPending s = .next t) (k : Nat) :
    readByte t .ibuf k = readByte s .ibuf k := by
  obtain ⟨u, hu, hcases⟩ := runPending_cases s
  cases h.symm.trans hu
  obtain ⟨e, info, -, -, rfl⟩ | ⟨i, -, hs⟩ := hcases
  · rfl
  · exact (succeedsWith_onlyOutputsChanged hs).readByte_ibuf k

end

/-! ### The writers of the three buffers (R89) -/

/-- Only a commit and a reset reach OBUF and PBUF. -/
theorem EngineSideKept.readByte_eq {s t : State} (h : EngineSideKept s t) {b : Buffer}
    (hb : b ≠ .ibuf) (k : Nat) : readByte t b k = readByte s b k := by
  rw [h.eq]
  cases b with
  | ibuf => exact absurd rfl hb
  | obuf => rfl
  | pbuf => rfl

/-- A transaction changes an IBUF byte only by a legal write to that byte while BUSY = 0. -/
theorem transact_ibufByte {q : Request} {s : State} {k : Nat}
    (hne : readByte (transact q s) .ibuf k ≠ readByte s .ibuf k) :
    s.pendValid = false ∧ q.writesIbuf s k ∧
      readByte (transact q s) .ibuf k = q.wdata.extractLsb' 0 8 := by
  have hrespond : readByte (transact q s) .ibuf k = readByte (busAccess q s).1 .ibuf k := rfl
  rw [hrespond] at hne ⊢
  obtain h | ⟨-, -, h⟩ | ⟨hp, ⟨-, h⟩ | h | h | ⟨hq, h⟩⟩ := busAccess_effect q s <;> rw [h] at hne ⊢
  · exact absurd rfl hne
  · exact absurd rfl hne
  · exact absurd rfl hne
  · exact absurd rfl hne
  · exact absurd rfl hne
  · rw [readByte_setIbufByte] at hne ⊢
    by_cases hk : k = offsetOf q.addr
    · exact ⟨hp, hk ▸ hq, if_pos hk⟩
    · exact absurd (if_neg hk) hne

/-- R89 for IBUF: the host's write to that very byte while BUSY = 0. -/
theorem step_ibufByte {s t : State} (h : step s = .next t) (hl : ¬ LeavesReset s) {k : Nat}
    (hne : readByte t .ibuf k ≠ readByte s .ibuf k) :
    nextTurn s = .host ∧ s.rst = .high ∧ s.pendValid = false ∧
      ∃ q : Request, s.nextRequest q ∧ q.writesIbuf s k ∧
        readByte t .ibuf k = q.wdata.extractLsb' 0 8 := by
  obtain ⟨hn, rfl⟩ | ⟨-, -, -, hrun⟩ | ⟨-, rfl⟩ | ⟨-, -, rfl⟩ | ⟨hn, hr, -⟩ | ⟨-, rfl⟩ :=
    step_cases h
  · obtain heq | ⟨hr, q, rest, hh, heq⟩ | ⟨r, p, heq⟩ := hostTurn_effect (dropTurn s) <;>
      rw [heq] at hne ⊢
    · exact absurd rfl hne
    · obtain ⟨hp, hq, hbyte⟩ := transact_ibufByte (s := dropTurn s) hne
      exact ⟨hn, hr, hp, q, ⟨rest, hh⟩, hq, hbyte⟩
    · exact absurd rfl hne
  · exact absurd (runPending_ibufByte hrun k) hne
  · exact absurd rfl hne
  · exact absurd rfl hne
  · exact absurd ⟨hn, hr⟩ hl
  · exact absurd rfl hne

/-- R89 for OBUF: a successful CHUNK_SERIALIZE, below OUT_LEN. -/
theorem step_obufByte {s t : State} (hinv : Inv s) (h : step s = .next t) (hl : ¬ LeavesReset s)
    {k : Nat} (hne : readByte t .obuf k ≠ readByte s .obuf k) :
    CommitsOk .chunkSerialize s t ∧ k < t.outLen.toNat := by
  obtain hkept | ⟨-, e, info, rfl⟩ | ⟨i, hok, hs⟩ := step_outcome h hl
  · exact absurd (hkept.readByte_eq (by decide) k) hne
  · exact absurd rfl hne
  · have hout := succeedsWith_onlyOutputsChanged hs
    have hi : i = .chunkSerialize := by
      by_contra hi
      exact hne (hout.readByte_obuf hi k)
    subst hi
    have hinv' : Inv (dropTurn s) := hinv.of_onlyUnconstrainedChanged rfl
    obtain ⟨f, hstore, hlen⟩ := succeedsWith_storesFrame hinv' hs
    refine ⟨hok, ?_⟩
    by_contra hk
    exact hne (readByte_of_store_beyond hstore hout.draws_eq (by omega))

/-- R89 for PBUF: a successful CHUNK_NEW or CHUNK_PARSE, below CH_LENGTH. -/
theorem step_pbufByte {s t : State} (h : step s = .next t) (hl : ¬ LeavesReset s)
    {k : Nat} (hne : readByte t .pbuf k ≠ readByte s .pbuf k) :
    (CommitsOk .chunkNew s t ∨ CommitsOk .chunkParse s t) ∧ k < t.chLength.toNat := by
  obtain hkept | ⟨-, e, info, rfl⟩ | ⟨i, hok, hs⟩ := step_outcome h hl
  · exact absurd (hkept.readByte_eq (by decide) k) hne
  · exact absurd rfl hne
  · have hout := succeedsWith_onlyOutputsChanged hs
    have hi : i = .chunkNew ∨ i = .chunkParse := by
      by_contra hi
      exact hne (hout.readByte_pbuf hi k)
    obtain ⟨p, hstore, hlen⟩ := succeedsWith_storesPayload hs hi
    have hby {j : Instr} (hj : i = j) : CommitsOk j s t := hj ▸ hok
    refine ⟨hi.imp hby hby, ?_⟩
    by_contra hk
    exact hne (readByte_of_store_beyond hstore hout.draws_eq (by omega))

/-- Settles O51, buffer by buffer. -/
theorem bufferBytesChangeOnlyByTheirWriters : Obligations.BufferBytesChangeOnlyByTheirWriters := by
  intro s t k hinv h hl
  exact ⟨step_ibufByte h hl, step_obufByte hinv h hl, step_pbufByte h hl⟩

end Sys2Proof.Machine
end

section
/-! PROOFS. What no rule gives a meaning reaches nothing: a command run on other bytes in OBUF and in
PBUF outside the current chunk does the same, but for such bytes (O54). -/

namespace Sys2Proof.Machine

/-- The state with other memories in OBUF and PBUF. -/
def withStale (mo mp : Memory) (s : State) : State := { s with obuf := mo, pbuf := mp }

/-- The current chunk has the same payload bytes in `s` and `s'` (R46). -/
def SamePayload (s s' : State) : Prop :=
  s.chValid = true → ∀ k, k < s.chLength.toNat → readByte s' .pbuf k = readByte s .pbuf k

/-- A frame of the current chunk stands in OBUF, the same in `s` and `s'` (R212). -/
def SameFrame (s s' : State) : Prop :=
  ∀ k, k < 12 + s.chLength.toNat → readByte s' .obuf k = readByte s .obuf k

/-- The outcomes of the command `i` are one state but for bytes without a meaning. -/
def StaleDiffer (i : Instr) (o o' : Host.Outcome State Fault Refusal) : Prop :=
  ∃ t mo mp, o = .next t ∧ o' = .next (withStale mo mp t) ∧
    (i = .chunkSerialize → t.err = .ok → SameFrame t (withStale mo mp t)) ∧
    SamePayload t (withStale mo mp t)

/-- A check that two runs share: it is enough that their outcomes correspond on either side. -/
theorem StaleDiffer.ite {i : Instr} {c : Prop} [Decidable c]
    {a a' b b' : Host.Outcome State Fault Refusal} (ha : c → StaleDiffer i a a')
    (hb : ¬ c → StaleDiffer i b b') :
    StaleDiffer i (if c then a else b) (if c then a' else b') := by
  by_cases hc : c
  · rw [if_pos hc, if_pos hc]; exact ha hc
  · rw [if_neg hc, if_neg hc]; exact hb hc

/-- A byte stored at the start of a buffer does not depend on what the buffer held. -/
theorem readByte_eq_of_stores {s s' : State} {b : Buffer} {m m' : Memory} {bs : List Byte}
    (h : bufferCells s b = Memory.store m 0 bs) (h' : bufferCells s' b = Memory.store m' 0 bs)
    {k : Nat} (hk : k < bs.length) : readByte s' b k = readByte s b k := by
  have hin (m : Memory) : Memory.lookup (Memory.store m 0 bs) k = some bs[k] := by
    simpa using lookup_store_inside m 0 bs k hk
  simp only [readByte, h, h', hin, Option.getD_some]

/-- A chunk made from the same payload has the same bytes, whatever PBUF held. -/
theorem samePayload_of_stores {s s' : State} {m m' : Memory} {p : List Byte}
    (h : bufferCells s .pbuf = Memory.store m 0 p)
    (h' : bufferCells s' .pbuf = Memory.store m' 0 p) (hl : s.chLength.toNat = p.length) :
    SamePayload s s' :=
  fun _ _ hk => readByte_eq_of_stores h h' (hl ▸ hk)

section

variable {i : Instr} {s : State} {mo mp : Memory}

/-- An error commit writes no buffer. -/
theorem StaleDiffer.raise (h : SamePayload s (withStale mo mp s)) {e : ResultCode} (he : e ≠ .ok)
    (info : Word) :
    StaleDiffer i (.next (raise e info s)) (.next (raise e info (withStale mo mp s))) :=
  ⟨_, mo, mp, rfl, rfl, fun _ herr => absurd herr he, h⟩

/-- A success commit that stores nothing. -/
theorem StaleDiffer.succeed (h : SamePayload s (withStale mo mp s)) (hi : i ≠ .chunkSerialize) :
    StaleDiffer i (.next (succeed s)) (.next (succeed (withStale mo mp s))) :=
  ⟨_, mo, mp, rfl, rfl, fun his => absurd his hi, h⟩

theorem constructType_staleDiffer (h : SamePayload s (withStale mo mp s))
    (hi : i ≠ .chunkSerialize) (t : Word) :
    StaleDiffer i (.next (constructType t s)) (.next (constructType t (withStale mo mp s))) := by
  unfold constructType
  cases firstNonAlpha (bytesBE32 t) with
  | some j => exact .raise h (by decide) _
  | none => exact .succeed (s := setType t s) h hi

/-! ### The operands -/

theorem inputBytes_withStale (mo mp : Memory) (s : State) :
    inputBytes (withStale mo mp s) = inputBytes s :=
  readBytes_congr fun _ _ => rfl

theorem framePayload_withStale (mo mp : Memory) (s : State) :
    framePayload (withStale mo mp s) = framePayload s :=
  readBytes_congr fun _ _ => rfl

/-- The payload that CHUNK_SERIALIZE reads lies inside the current chunk. -/
theorem SamePayload.chunkData_eq (h : SamePayload s (withStale mo mp s)) (hv : s.chValid = true) :
    chunkData (withStale mo mp s) = chunkData s :=
  readBytes_congr fun k hk => h hv (0 + k) (by rw [Nat.zero_add]; exact hk)

/-! ### The commands -/

theorem execCtFromText_staleDiffer (h : SamePayload s (withStale mo mp s)) :
    StaleDiffer .ctFromText (execCtFromText s) (execCtFromText (withStale mo mp s)) :=
  .ite (fun _ => .raise h (by decide) _) fun _ =>
    .ite (fun _ => .raise h (by decide) _) fun _ =>
      constructType_staleDiffer h (by decide) (textCode s)

theorem execCrcBuf_staleDiffer (h : SamePayload s (withStale mo mp s)) :
    StaleDiffer .crcBuf (execCrcBuf s) (execCrcBuf (withStale mo mp s)) := by
  refine .ite (fun _ => .raise h (by decide) _) fun _ => ?_
  rw [inputBytes_withStale]
  exact .succeed (s := setCrcOut (crc32 (inputBytes s)) s) h (by decide)

theorem execChunkNew_staleDiffer (h : SamePayload s (withStale mo mp s)) :
    StaleDiffer .chunkNew (execChunkNew s) (execChunkNew (withStale mo mp s)) := by
  refine .ite (fun _ => .raise h (by decide) _) fun _ =>
    .ite (fun _ => .raise h (by decide) _) fun _ => ?_
  rw [inputBytes_withStale]
  have hlen : s.inLen.toNat = (inputBytes s).length := (readBytes_length ..).symm
  exact ⟨_, mo, Memory.store mp 0 (inputBytes s), rfl, rfl, fun hi => Instr.noConfusion hi,
    samePayload_of_stores (m := s.pbuf) (m' := mp) rfl rfl hlen⟩

/-- Both runs put the same frame into OBUF: its payload is that of the current chunk (R212). -/
theorem execChunkSerialize_staleDiffer (h : SamePayload s (withStale mo mp s)) :
    StaleDiffer .chunkSerialize (execChunkSerialize s) (execChunkSerialize (withStale mo mp s)) := by
  refine .ite (fun _ => .raise h (by decide) _) fun hv => ?_
  rw [h.chunkData_eq (by simpa using hv)]
  refine ⟨_, Memory.store mo 0 (frame s.chLength s.chType (chunkData s) s.chCrc), mp, rfl, rfl,
    fun _ _ k hk => ?_, h⟩
  have hk' : k < (frame s.chLength s.chType (chunkData s) s.chCrc).length := by
    rw [frame_length, chunkData, readBytes_length]; exact hk
  exact readByte_eq_of_stores (m := s.obuf) (m' := mo) rfl rfl hk'

theorem execChunkParse_staleDiffer (h : SamePayload s (withStale mo mp s)) :
    StaleDiffer .chunkParse (execChunkParse s) (execChunkParse (withStale mo mp s)) := by
  refine .ite (fun _ => .raise h (by decide) _) fun _ =>
    .ite (fun _ => .raise h (by decide) _) fun _ => ?_
  have htype : frameType (withStale mo mp s) = frameType s := rfl
  rw [htype, framePayload_withStale]
  cases firstNonAlpha (bytesBE32 (frameType s)) with
  | some j => exact .raise h (by decide) _
  | none =>
    refine .ite (fun _ => .raise h (by decide) _) fun _ =>
      .ite (fun _ => .raise h (by decide) _) fun _ =>
        .ite (fun _ => .raise h (by decide) _) fun _ => ?_
    have hlen : (frameLength s).toNat = (framePayload s).length := (readBytes_length ..).symm
    exact ⟨_, mo, Memory.store mp 0 (framePayload s), rfl, rfl, fun hi => Instr.noConfusion hi,
      samePayload_of_stores (m := s.pbuf) (m' := mp) rfl rfl hlen⟩

/-- Every command does the same on other bytes without a meaning. -/
theorem exec_staleDiffer (h : SamePayload s (withStale mo mp s)) (i : Instr) :
    StaleDiffer i (exec i s) (exec i (withStale mo mp s)) := by
  cases i with
  | ctFromBytes => exact constructType_staleDiffer h (by decide) s.ctIn
  | ctFromText => exact execCtFromText_staleDiffer h
  | crcBuf => exact execCrcBuf_staleDiffer h
  | chunkNew => exact execChunkNew_staleDiffer h
  | chunkSerialize => exact execChunkSerialize_staleDiffer h
  | chunkParse => exact execChunkParse_staleDiffer h

end

/-- Settles O54. -/
theorem staleBytesReachNothing : Obligations.StaleBytesReachNothing := by
  intro i s t mo mp hsame ht
  obtain ⟨u, mo', mp', hu, hrun, hframe, hpayload⟩ :=
    exec_staleDiffer (mo := mo) (mp := mp) hsame i
  cases ht.symm.trans hu
  exact ⟨mo', mp', hrun, hframe, hpayload⟩

end Sys2Proof.Machine
end

section
/-! PROOFS. The host's turn is the next action of its list, and the statements of R116 and R117 are
lists of such actions (O59). -/

namespace Sys2Proof.Machine

/-! ### The host's turn (R96) -/

/-- The host's turn with rst_n high is its next action. -/
theorem step_hostAct {s : State} {op : HostOp} {rest : List HostOp} (hn : nextTurn s = .host)
    (hr : s.rst = .high) (hh : s.host = op :: rest) :
    step s = .next (hostAct op rest (dropTurn s)) := by
  rw [step_host hn]
  simp only [hostTurn, dropTurn_rst, dropTurn_host, hr, hh]

/-- The host's turn with rst_n low, or with nothing to do. -/
theorem step_hostIdle {s : State} (hn : nextTurn s = .host) (h : s.rst ≠ .high ∨ s.host = []) :
    step s = .next (dropTurn s) := by
  rw [step_host hn]
  cases hr : s.rst with
  | low e => simp only [hostTurn, dropTurn_rst, hr]
  | high =>
    have hh : s.host = [] := h.resolve_left (absurd hr)
    simp only [hostTurn, dropTurn_rst, dropTurn_host, hr, hh]

/-- The access itself leaves the list of responses: `transact` adds the one it returns. -/
theorem busAccess_responses (q : Request) (s : State) :
    (busAccess q s).1.responses = s.responses := by
  obtain h | ⟨-, h⟩ | ⟨-, h | h | h | ⟨-, h⟩⟩ := busAccess_cases q s <;> rw [h] <;> rfl

theorem busAccess_turns (q : Request) (s : State) : (busAccess q s).1.turns = s.turns := by
  obtain h | ⟨-, h⟩ | ⟨-, h | h | h | ⟨-, h⟩⟩ := busAccess_cases q s <;> rw [h] <;> rfl

/-- A transaction on the host's turn: its effect, its response, and the turn taken off. -/
theorem transact_dropTurn (q : Request) (s : State) :
    transact q (dropTurn s) =
      { (busAccess q s).1 with
        responses := s.responses ++ [(busAccess q s).2], turns := s.turns.tail } := by
  rw [transact, busAccess_dropTurn, ← busAccess_responses q s, ← busAccess_turns q s]
  rfl

/-- A read on the host's turn: only the response, and the turn taken off. -/
theorem transact_dropTurn_read {q : Request} (hk : q.kind = .read) (s : State) :
    transact q (dropTurn s) =
      { s with responses := s.responses ++ [(busAccess q s).2], turns := s.turns.tail } := by
  rw [transact_dropTurn, busAccess_read q s hk]

/-! ### The host's statements (R116, R117) -/

theorem loadOps_eq_map (bs : List Byte) (k : Nat) :
    loadOps k bs = (bs.zipIdx k).map fun p => .bus (writeReq8 (bufAddr .ibuf p.2) p.1) := by
  induction bs generalizing k with
  | nil => rfl
  | cons b bs ih => rw [loadOps, ih, List.zipIdx_cons, List.map_cons]

theorem dumpOps_eq_map (b : Buffer) (k n : Nat) :
    dumpOps b k n = (List.range' k n).map fun i => .bus (readReq8 (bufAddr b i)) := by
  induction n generalizing k with
  | zero => rfl
  | succ n ih => rw [dumpOps, ih, List.range'_succ, List.map_cons]

theorem copyOps_eq_map (k n : Nat) :
    copyOps k n =
      (List.range' k n).map fun i => .copyByte (bufAddr .obuf i) (bufAddr .ibuf i) := by
  induction n generalizing k with
  | zero => rfl
  | succ n ih => rw [copyOps, ih, List.range'_succ, List.map_cons]

/-- The register names stand for the addresses of R31. -/
theorem regAddr_of_mem {r : Reg} {a : Word}
    (h : (r, a) ∈ allRegs.map fun r => (r, regAddr r)) : regAddr r = a := by
  obtain ⟨r', -, hr⟩ := List.mem_map.mp h
  cases hr
  rfl

/-- Settles O59: a turn is the next action of the list, and each statement a list of actions. -/
theorem hostActsAsItsStatementsSay : Obligations.HostActsAsItsStatementsSay := by
  refine ⟨fun s hn => ⟨fun q rest hr hh => ?_, fun src dst rest hr hh => ?_, step_hostIdle hn⟩,
    fun _ _ => rfl, fun _ => rfl, fun _ _ => rfl, fun _ => rfl, fun _ => ⟨rfl, rfl⟩, fun _ => rfl,
    fun bs => loadOps_eq_map bs 0, fun b k n => ?_, fun n => ?_, fun r a h => regAddr_of_mem h,
    fun _ => ⟨rfl, rfl, rfl⟩, fun _ => rfl, fun p => List.flatMap_def ..⟩
  · rw [step_hostAct hn hr hh, hostAct, transact_dropTurn]
    rfl
  · rw [step_hostAct hn hr hh, hostAct, transact_dropTurn_read rfl, busAccess_dropTurn]
    rfl
  · rw [Stmt.expand, dumpOps_eq_map, List.range'_eq_map_range, List.map_map]
    rfl
  · rw [Stmt.expand, copyOps_eq_map, ← List.range_eq_range']
    rfl

end Sys2Proof.Machine
end

section
/-! PROOFS. The encoder and the decoder are inverse, field by field of the command word
(O1, O2, O3). -/

namespace Sys2Proof

theorem encode_rsvd (i : Instr) : (encode i).extractLsb' 8 24 = 0 :=
  BitVec.extractLsb'_append_eq_left

theorem encode_op (i : Instr) : (encode i).extractLsb' 0 8 = opcodeOf i :=
  BitVec.extractLsb'_append_eq_right

/-- The word of a command, by its two fields (R110, R118). -/
theorem eq_encode_iff (w : Word) (i : Instr) :
    w = encode i ↔ w.extractLsb' 8 24 = 0 ∧ w.extractLsb' 0 8 = opcodeOf i := by
  constructor
  · rintro rfl
    exact ⟨encode_rsvd i, encode_op i⟩
  · rintro ⟨hrsvd, hop⟩
    rw [← word_of_fields w, hrsvd, hop, encode]

/-- What the decoder takes for a command, by the two fields of the word (R110, R114). -/
theorem decode_eq_some_iff (w : Word) (i : Instr) :
    decode w = some i ↔ w.extractLsb' 8 24 = 0 ∧ w.extractLsb' 0 8 = opcodeOf i := by
  rw [decode_eq, Option.ite_none_right_eq_some, commandOf_eq_some_iff]

/-- Settles O3: both sides fix the same two fields. -/
theorem decodeAndEncodeAgree : Obligations.DecodeAndEncodeAgree := fun w i =>
  (decode_eq_some_iff w i).trans (eq_encode_iff w i).symm

theorem decode_encode (i : Instr) : decode (encode i) = some i :=
  (decodeAndEncodeAgree _ i).mpr rfl

/-- The opcodes of R112 are the OP bytes of the six commands. -/
theorem exists_opcodeOf_iff (op : BitVec 8) :
    (∃ i, op = opcodeOf i) ↔
      op = 0x01 ∨ op = 0x02 ∨ op = 0x10 ∨ op = 0x20 ∨ op = 0x21 ∨ op = 0x22 := by
  constructor
  · rintro ⟨i, rfl⟩
    cases i <;> decide
  · rintro (h | h | h | h | h | h)
    · exact ⟨.ctFromBytes, h⟩
    · exact ⟨.ctFromText, h⟩
    · exact ⟨.crcBuf, h⟩
    · exact ⟨.chunkNew, h⟩
    · exact ⟨.chunkSerialize, h⟩
    · exact ⟨.chunkParse, h⟩

/-- Settles O2: a word is legal if it decodes to some command. -/
theorem legalIffReservedZeroAndOpcodeKnown : Obligations.LegalIffReservedZeroAndOpcodeKnown := by
  intro w
  simp only [Option.isSome_iff_exists, decode_eq_some_iff, exists_and_left, exists_opcodeOf_iff]

/-- Settles O1: six closed words; the two that are decoded are words the encoder gave. -/
theorem commandWordsInFull : Obligations.CommandWordsInFull :=
  ⟨rfl, rfl, rfl, rfl, rfl, rfl, decode_encode .ctFromBytes, decode_encode .chunkParse, rfl⟩

end Sys2Proof
end

section
/-! PROOFS. WAIT reads STATUS until its bit 0 is 0 (O18). -/

namespace Sys2Proof.Machine

/-- Bit 0 of STATUS is BUSY (R34). -/
theorem statusWord_getLsbD_0 (s : State) : (statusWord s).getLsbD 0 = s.pendValid := by
  rw [statusWord, BitVec.getLsbD_append, if_pos Nat.zero_lt_one, BitVec.getLsbD_ofBool]
  exact Bool.true_and _

/-- The read of STATUS that WAIT makes (R117). -/
theorem busAccess_readStatus (s : State) :
    busAccess (readReq32 (regAddr .status)) s = (s, okayRead (statusWord s)) :=
  busAccess_readReg (r := .status) rfl rfl rfl s

/-- Settles O18: the read changes nothing, and its bit 0 says whether WAIT stays. -/
theorem waitPollsStatusUntilIdle : Obligations.WaitPollsStatusUntilIdle := by
  intro s rest hn hr hh
  rw [step_hostAct hn hr hh, hostAct, statusWord_getLsbD_0, transact_dropTurn_read rfl,
    busAccess_readStatus]
  rfl

end Sys2Proof.Machine
end

section
/-! PROOFS. The chunk type: the property word bit by bit and as case bits (O20, O21, O22), and the
two commands that construct the current type (O23, O24). -/

namespace Sys2Proof.Machine

open Sys2Proof.Claims

/-! ### The property extractor (R150, R156) -/

/-- The property word, bit by bit. -/
theorem getLsbD_props (t : Word) {k : Nat} (hk : k < 32) :
    (props t true).getLsbD k =
      (!t.getLsbD 29 && decide (k = 0) || !t.getLsbD 21 && decide (k = 1) ||
        !t.getLsbD 13 && decide (k = 2) || t.getLsbD 5 && decide (k = 3) ||
        !t.getLsbD 13 && decide (k = 4) || decide (k = 8)) := by
  simp only [props, if_true, BitVec.getLsbD_or, getLsbD_bitAt _ _ hk, Bool.true_and]

/-- Bits 7:5 and 31:9 of the property word are 0 (R150). -/
theorem getLsbD_props_reserved (t : Word) {k : Nat} (hk : 5 ≤ k ∧ k ≤ 7 ∨ 9 ≤ k) :
    (props t true).getLsbD k = false := by
  by_cases hlt : k < 32
  · rw [getLsbD_props t hlt]
    simp [show k ≠ 0 ∧ k ≠ 1 ∧ k ≠ 2 ∧ k ≠ 3 ∧ k ≠ 4 ∧ k ≠ 8 by omega]
  · exact BitVec.getLsbD_of_ge _ _ (by omega)

/-- Settles O20: each bit is read off `getLsbD_props`; the two registers are the extractor itself. -/
theorem propertyExtractor : Obligations.PropertyExtractor := by
  refine ⟨fun _ => rfl, fun t => ?_, fun _ => ⟨rfl, rfl⟩⟩
  refine ⟨?_, ?_, ?_, ?_, ?_, props_getLsbD_8 t true, fun _ => getLsbD_props_reserved t⟩ <;>
    · rw [getLsbD_props t (by decide)]
      simp

/-- Settles O22: the definition names no other bit of the code. -/
theorem propertiesReadOnlyTheCaseBits : Obligations.PropertiesReadOnlyTheCaseBits := by
  intro t u v h29 h21 h13 h5
  rw [props, props, h29, h21, h13, h5]

/-! ### The case bits (R151 to R155, R16) -/

/-- Bit 5 of each byte of a packed code, by its place in the word (R14). -/
theorem be32_caseBits (b0 b1 b2 b3 : Byte) :
    (be32 b0 b1 b2 b3).getLsbD 29 = b0.getLsbD 5 ∧ (be32 b0 b1 b2 b3).getLsbD 21 = b1.getLsbD 5 ∧
    (be32 b0 b1 b2 b3).getLsbD 13 = b2.getLsbD 5 ∧ (be32 b0 b1 b2 b3).getLsbD 5 = b3.getLsbD 5 := by
  refine ⟨?_, ?_, ?_, ?_⟩ <;>
    · rw [be32, BitVec.getLsbD_append, BitVec.getLsbD_append, BitVec.getLsbD_append]
      rfl

/-- The mask 0x20 takes bit 5 of a byte. -/
theorem and_0x20_eq_zero_iff (b : Byte) : b &&& 0x20 = 0 ↔ b.getLsbD 5 = false := by
  rw [show (0x20 : Byte) = BitVec.twoPow 8 5 from rfl, BitVec.and_twoPow]
  cases b.getLsbD 5 <;> decide

theorem isAlpha_eq_true_iff (b : Byte) :
    isAlpha b = true ↔ (0x41 ≤ b.toNat ∧ b.toNat ≤ 0x5A) ∨ (0x61 ≤ b.toNat ∧ b.toNat ≤ 0x7A) := by
  rw [isAlpha, Bool.or_eq_true, decide_eq_true_eq, decide_eq_true_eq]

/-- The case bit of a letter is 0 for uppercase only (R151). -/
theorem caseBit_of_isAlpha {b : Byte} (h : isAlpha b = true) :
    b.getLsbD 5 = false ↔ 0x41 ≤ b.toNat ∧ b.toNat ≤ 0x5A := by
  rw [isAlpha_eq_true_iff] at h
  rw [← BitVec.testBit_toNat, Nat.testBit_eq_decide_div_mod_eq, decide_eq_false_iff_not]
  omega

/-- Settles O21: the bits that the extractor reads (O20) are bits 5 of the code's bytes. -/
theorem propertiesAreCaseBits : Obligations.PropertiesAreCaseBits := by
  refine ⟨fun b0 b1 b2 b3 => ?_,
    fun b h => (and_0x20_eq_zero_iff b).trans (caseBit_of_isAlpha h), isAlpha_eq_true_iff⟩
  obtain ⟨h29, h21, h13, h5⟩ := be32_caseBits b0 b1 b2 b3
  obtain ⟨hcrit, hpub, hrsv, hsafe, hvalid, -⟩ := propertyExtractor.2.1 (be32 b0 b1 b2 b3)
  simp only [hcrit, hpub, hrsv, hsafe, hvalid, h29, h21, h13, h5, ne_eq, and_0x20_eq_zero_iff,
    Bool.not_eq_true', Bool.not_eq_false, and_self]

/-! ### The alphabetic check (R140) -/

/-- The least bad index of a 4-byte code is what the model's check finds. -/
theorem leastBad_iff {cs : List Byte} (hlen : cs.length = 4) (i : Nat) :
    LeastBad cs i ↔ firstNonAlpha cs = some i := by
  simp only [LeastBad, firstNonAlpha, List.findIdx?_eq_some_iff_getElem,
    List.getElem?_eq_some_iff, hlen]
  constructor
  · rintro ⟨hi, hbelow, _, ⟨_, rfl⟩, hbad⟩
    refine ⟨hi, by simp [hbad], fun j hj => ?_⟩
    obtain ⟨_, ⟨_, rfl⟩, hgood⟩ := hbelow j hj
    simp [hgood]
  · rintro ⟨hi, hbad, hbelow⟩
    exact ⟨hi, fun j hj => ⟨_, ⟨hj.trans hi, rfl⟩, by simpa using hbelow j hj⟩,
      _, ⟨hi, rfl⟩, by simpa using hbad⟩

theorem constructType_of_alphaCode {t : Word} (h : alphaCode t = true) (s : State) :
    constructType t s = succeed (setType t s) := by
  rw [constructType, (firstNonAlpha_eq_none_iff _).mpr h]

theorem constructType_of_leastBad {t : Word} {i : Nat} (h : LeastBad (bytesBE32 t) i) (s : State) :
    constructType t s = errorCommit .notAlphabetic (BitVec.ofNat 32 i) s := by
  rw [constructType, (leastBad_iff rfl i).mp h]
  rfl

theorem exists_leastBad {t : Word} (h : alphaCode t = false) :
    ∃ i, LeastBad (bytesBE32 t) i := by
  have hsome : firstNonAlpha (bytesBE32 t) ≠ none := by
    rw [ne_eq, firstNonAlpha_eq_none_iff, Bool.not_eq_true]
    exact h
  obtain ⟨i, hi⟩ := Option.ne_none_iff_exists'.mp hsome
  exact ⟨i, (leastBad_iff rfl i).mpr hi⟩

/-! ### The commands (R141, R142) -/

/-- Settles O23: the command is the type construction on CT_IN. -/
theorem ctFromBytesResult : Obligations.CtFromBytesResult :=
  ⟨rfl, fun s =>
    ⟨fun h => ⟨_, congrArg Host.Outcome.next (constructType_of_alphaCode h s), rfl, rfl⟩,
      fun _ h => congrArg Host.Outcome.next (constructType_of_leastBad h s), exists_leastBad⟩⟩

theorem execCtFromText_of_overIbuf {s : State} (h : bufferSize s .ibuf < s.inLen.toNat) :
    execCtFromText s = .next (errorCommit .capacity s.inLen s) :=
  if_pos ((overIbuf_eq_true_iff s).mpr h)

theorem execCtFromText_of_fits {s : State} (h : s.inLen.toNat ≤ bufferSize s .ibuf) :
    execCtFromText s =
      if s.inLen.toNat < 4 then .next (errorCommit .tooShort s.inLen s)
      else .next (constructType (textCode s) s) := by
  rw [execCtFromText, (overIbuf_eq_false_iff s).mpr h]
  rfl

/-- IBUF holds more than a code, so TOO_SHORT and CAPACITY exclude each other (R9). -/
theorem four_le_ibufSize (s : State) : 4 ≤ bufferSize s .ibuf := by
  simp [bufferSize, Config.frameOverhead]

theorem execCtFromText_of_short {s : State} (h : s.inLen.toNat < 4) :
    execCtFromText s = .next (errorCommit .tooShort s.inLen s) := by
  rw [execCtFromText_of_fits (h.le.trans (four_le_ibufSize s)), if_pos h]

theorem execCtFromText_of_checked {s : State} (hmin : 4 ≤ s.inLen.toNat)
    (hfits : s.inLen.toNat ≤ bufferSize s .ibuf) :
    execCtFromText s = .next (constructType (textCode s) s) := by
  rw [execCtFromText_of_fits hfits, if_neg (Nat.not_lt.mpr hmin)]

/-- Settles O24: the checks in order, then the type construction of CT_FROM_BYTES. -/
theorem ctFromTextResult : Obligations.CtFromTextResult := by
  refine ⟨rfl, fun s => ⟨execCtFromText_of_overIbuf, execCtFromText_of_short,
    fun hmin hfits => ⟨fun h => ?_, fun i h => ?_⟩⟩⟩
  · exact ⟨_, (execCtFromText_of_checked hmin hfits).trans
      (congrArg Host.Outcome.next (constructType_of_alphaCode h s)), rfl, rfl⟩
  · rw [← bytesBE32_readWord] at h
    exact (execCtFromText_of_checked hmin hfits).trans
      (congrArg Host.Outcome.next (constructType_of_leastBad h s))

end Sys2Proof.Machine
end

section
/-! PROOFS. The CRC unit: the byte-wise function as the bit-serial shift register (O27), the residue
of a string followed by its own CRC (O28), the fixed values (O26), the chunk's order (O30) and
CRC_BUF (O25). -/

namespace Sys2Proof.Machine

open Sys2Proof.Claims

/-! ### Bit strings in the order of R181 -/

/-- The `n` low bits of `x`, bit 0 first. -/
def lowBits {w : Nat} (x : BitVec w) (n : Nat) : List Bool := (List.range n).map x.getLsbD

theorem lowBits_succ {w : Nat} (x : BitVec w) (n : Nat) :
    lowBits x (n + 1) = x.getLsbD 0 :: lowBits (x >>> 1) n := by
  simp [lowBits, List.range_succ_eq_map, Function.comp_def, BitVec.getLsbD_ushiftRight,
    Nat.add_comm]

theorem lowBits_add {w : Nat} (x : BitVec w) (m n : Nat) :
    lowBits x (m + n) = lowBits x m ++ lowBits (x >>> m) n := by
  simp [lowBits, List.range_add, Function.comp_def, BitVec.getLsbD_ushiftRight]

theorem lowBits_zeroExtend {w v n : Nat} (x : BitVec w) (h : n ≤ v) :
    lowBits (x.zeroExtend v) n = lowBits x n := by
  refine List.map_congr_left fun i hi => ?_
  have hlt : i < v := (List.mem_range.mp hi).trans_le h
  simp [hlt]

theorem lowBits_extractLsb' {w n : Nat} (x : BitVec w) (k : Nat) :
    lowBits (x.extractLsb' k n) n = lowBits (x >>> k) n := by
  refine List.map_congr_left fun i hi => ?_
  simp [List.mem_range.mp hi]

theorem bitsOf_nil : bitsOf [] = [] := rfl

/-- The first byte gives the first eight bits. -/
theorem bitsOf_cons (b : Byte) (s : List Byte) : bitsOf (b :: s) = lowBits b 8 ++ bitsOf s := by
  have hhead : (List.range 8).map (bitOf (b :: s)) = lowBits b 8 := rfl
  have htail : bitOf (b :: s) ∘ (8 + ·) = bitOf s := by
    funext i
    simp [bitOf, Nat.add_div_left]
  rw [bitsOf, List.length_cons, Nat.mul_succ, Nat.add_comm, List.range_add, List.map_append, hhead,
    List.map_map, htail, bitsOf]

/-- A word's four bytes, least significant first (the order of V-CRC-17). -/
def bytesLE32 (c : Word) : List Byte :=
  [c.extractLsb' 0 8, c.extractLsb' 8 8, c.extractLsb' 16 8, c.extractLsb' 24 8]

theorem bitsOf_bytesLE32 (c : Word) : bitsOf (bytesLE32 c) = lowBits c 32 := by
  change bitsOf (bytesLE32 c) = lowBits c (8 + (8 + (8 + 8)))
  simp only [bytesLE32, bitsOf_cons, bitsOf_nil, lowBits_extractLsb', lowBits_add,
    ← BitVec.shiftRight_add, List.append_nil, BitVec.ushiftRight_zero]

/-! ### The shift register (R181, R182) -/

/-- A bit step after an exclusive or with `x` feeds bit 0 of `x`; the other bits wait their turn. -/
theorem crcBit_xor (r x : Word) : crcBit (r ^^^ x) = crcFeed r (x.getLsbD 0) ^^^ (x >>> 1) := by
  rw [crcBit, crcFeed, BitVec.getLsbD_xor, BitVec.ushiftRight_xor_distrib]
  split
  · ac_rfl
  · rfl

/-- `n` bit steps after an exclusive or with `x` feed the `n` low bits of `x`. -/
theorem crcBits_xor (n : Nat) (r x : Word) :
    crcBits (r ^^^ x) n = (lowBits x n).foldl crcFeed r ^^^ (x >>> n) := by
  induction n generalizing r x with
  | zero => rfl
  | succ n ih =>
    rw [crcBits, crcBit_xor, ih, lowBits_succ, List.foldl_cons, ← BitVec.shiftRight_add,
      Nat.add_comm 1 n]

/-- `n` bit steps feed the whole of an `x` of at most `n` bits. -/
theorem crcBits_xor_of_shift_eq_zero {n : Nat} {x : Word} (r : Word) (h : x >>> n = 0#32) :
    crcBits (r ^^^ x) n = (lowBits x n).foldl crcFeed r := by
  rw [crcBits_xor, h, BitVec.xor_zero]

/-- The byte step feeds the eight bits of the byte. -/
theorem crcByte_eq_foldl_crcFeed (r : Word) (b : Byte) :
    crcByte r b = (lowBits b 8).foldl crcFeed r := by
  have hempty : b.zeroExtend 32 >>> 8 = 0#32 := by
    ext i
    simp
  rw [crcByte, crcBits_xor_of_shift_eq_zero r hempty, lowBits_zeroExtend b (by decide)]

theorem foldl_crcByte_eq_foldl_crcFeed (s : List Byte) (r : Word) :
    s.foldl crcByte r = (bitsOf s).foldl crcFeed r := by
  induction s generalizing r with
  | nil => rfl
  | cons b s ih =>
    rw [List.foldl_cons, ih, crcByte_eq_foldl_crcFeed, bitsOf_cons, List.foldl_append]

/-- Settles O27: byte by byte, the register takes the same bits. -/
theorem crcIsBitSerial : Obligations.CrcIsBitSerial := fun s =>
  congrArg (· ^^^ 0xFFFFFFFF) (foldl_crcByte_eq_foldl_crcFeed s 0xFFFFFFFF)

/-! ### The residue (R180) -/

/-- The four bytes of a word, low byte first, are 32 bit steps from the exclusive or. -/
theorem foldl_crcByte_bytesLE32 (r c : Word) :
    (bytesLE32 c).foldl crcByte r = crcBits (r ^^^ c) 32 := by
  have hempty : c >>> 32 = 0#32 := BitVec.ushiftRight_eq_zero (Nat.le_refl 32)
  rw [foldl_crcByte_eq_foldl_crcFeed, bitsOf_bytesLE32, crcBits_xor_of_shift_eq_zero r hempty]

/-- Settles O28: the register meets its own complement, so the 32 bit steps start from all ones
whatever the string was. -/
theorem crcResidue : Obligations.CrcResidue := by
  intro s
  have hresidue : crcBits 0xFFFFFFFF 32 = 0xDEBB20E3 := by decide +kernel
  calc crc32 (s ++ bytesLE32 (crc32 s))
    _ = crcBits (s.foldl crcByte 0xFFFFFFFF ^^^ crc32 s) 32 ^^^ 0xFFFFFFFF := by
      rw [crc32, List.foldl_append, foldl_crcByte_bytesLE32]
    _ = 0xDEBB20E3 ^^^ 0xFFFFFFFF := by rw [crc32, xor_cancel_left, hresidue]

/-! ### Fixed values and the chunk's order (R180, R184) -/

theorem crc32_nil : crc32 [] = 0 := rfl

theorem crc32_singleton (b : Byte) : crc32 [b] = crcByte 0xFFFFFFFF b ^^^ 0xFFFFFFFF := rfl

/-- Settles O26: closed values; the CRC of one byte is its byte step, complemented. -/
theorem crcCheckValues : Obligations.CrcCheckValues := by
  have hbyte : crcByte 0xFFFFFFFF 0x61 = 0x174841BC := by decide
  have hcheck : crc32 [0x31, 0x32, 0x33, 0x34, 0x35, 0x36, 0x37, 0x38, 0x39] = 0xCBF43926 := by
    decide +kernel
  exact ⟨hcheck, by rw [crc32_singleton, hbyte]; rfl, hbyte, crc32_nil⟩

theorem chunkCrc_nil (t : Word) : chunkCrc [] t = crc32 (bytesBE32 t) := rfl

/-- Settles O30: the order is the definition's; the two orders of "Hi" and "RuSt" are closed values. -/
theorem chunkCrcOrder : Obligations.ChunkCrcOrder :=
  ⟨fun _ _ => rfl, fun t => by rw [chunkCrc_nil, List.append_nil], by decide +kernel,
    by decide +kernel⟩

/-! ### The command (R185) -/

theorem execCrcBuf_of_overIbuf {s : State} (h : bufferSize s .ibuf < s.inLen.toNat) :
    execCrcBuf s = .next (errorCommit .capacity s.inLen s) :=
  if_pos ((overIbuf_eq_true_iff s).mpr h)

theorem execCrcBuf_of_fits {s : State} (h : s.inLen.toNat ≤ bufferSize s .ibuf) :
    execCrcBuf s = .next (succeed (setCrcOut (crc32 (inputBytes s)) s)) := by
  rw [execCrcBuf, (overIbuf_eq_false_iff s).mpr h]
  rfl

theorem inputBytes_of_inLen_zero {s : State} (h : s.inLen = 0) : inputBytes s = [] := by
  rw [inputBytes, inCount, h]
  rfl

/-- Settles O25: the check, then the success commit; an empty input passes the check. -/
theorem crcBufResult : Obligations.CrcBufResult := by
  refine ⟨rfl, fun s => ⟨execCrcBuf_of_overIbuf, execCrcBuf_of_fits, fun h => ?_⟩⟩
  have hfits : s.inLen.toNat ≤ bufferSize s .ibuf := by simp [h]
  exact ⟨_, execCrcBuf_of_fits hfits, by simp [succeed, inputBytes_of_inLen_zero h, crc32_nil]⟩

end Sys2Proof.Machine
end

section
/-! PROOFS. The three commands on the current chunk: CHUNK_NEW and CHUNK_SERIALIZE down to the bytes
of the buffers they store into (O31, O32), and CHUNK_PARSE check by check to the parsed chunk (O33,
O34, O35, O36, O37). -/

namespace Sys2Proof.Machine

open Sys2Proof.Claims

/-! ### A payload copied from IBUF to PBUF -/

/-- After IBUF[k..k+n) is stored at the start of PBUF, the bytes from n on are as before (R84). -/
theorem readByte_pbuf_of_copy (s : State) (k n i : Nat) :
    readByte { s with pbuf := Memory.store s.pbuf 0 (readBytes s .ibuf k n) } .pbuf i =
      if i < n then readByte s .ibuf (k + i) else readByte s .pbuf i := by
  have hlen : (readBytes s .ibuf k n).length = n := readBytes_length ..
  by_cases hi : i < n
  · have hin := lookup_store_inside s.pbuf 0 (readBytes s .ibuf k n) i (by rwa [hlen])
    rw [Nat.zero_add, readBytes_getElem _ _ _ _ _ hi] at hin
    rw [if_pos hi]
    exact congrArg (Option.getD · _) hin
  · rw [if_neg hi]
    exact readByte_of_store_beyond (by rfl) (by rfl) (hlen.trans_le (not_lt.mp hi))

/-- The size of a frame as a word, for every payload length (log entry 13). -/
theorem twelve_add_eq_ofNat (l : Word) : 12 + l = BitVec.ofNat 32 (12 + l.toNat) := by
  rw [BitVec.ofNat_add, BitVec.ofNat_toNat, BitVec.setWidth_eq]
  rfl

/-! ### CHUNK_NEW (R211) -/

theorem execChunkNew_of_typeUnset {s : State} (h : s.typeValid = false) :
    execChunkNew s = .next (errorCommit .typeUnset 0 s) := by
  rw [execChunkNew, h]
  rfl

theorem execChunkNew_of_overPayload {s : State} (ht : s.typeValid = true)
    (h : maxPayload s < s.inLen.toNat) :
    execChunkNew s = .next (errorCommit .capacity s.inLen s) := by
  rw [execChunkNew, ht, (overPayload_eq_true_iff s).mpr h]
  rfl

theorem execChunkNew_of_fits {s : State} (ht : s.typeValid = true)
    (h : s.inLen.toNat ≤ maxPayload s) :
    execChunkNew s = .next (succeed
      (setChunk s.typeReg s.inLen (chunkCrc (inputBytes s) s.typeReg) (inputBytes s) s)) := by
  rw [execChunkNew, ht, (overPayload_eq_false_iff s).mpr h]
  rfl

/-- Settles O31: the two checks, then the chunk, whose payload is the input. -/
theorem chunkNewResult : Obligations.ChunkNewResult := by
  refine ⟨rfl, fun s => ⟨execChunkNew_of_typeUnset, execChunkNew_of_overPayload, fun ht h =>
    ⟨Memory.store s.pbuf 0 (inputBytes s), execChunkNew_of_fits ht h, fun i => ?_⟩⟩⟩
  rw [inputBytes, readByte_pbuf_of_copy, Nat.zero_add]
  rfl

/-! ### CHUNK_SERIALIZE (R212) -/

theorem execChunkSerialize_of_noChunk {s : State} (h : s.chValid = false) :
    execChunkSerialize s = .next (errorCommit .noChunk 0 s) := by
  rw [execChunkSerialize, h]
  rfl

theorem execChunkSerialize_of_chunk {s : State} (h : s.chValid = true) :
    execChunkSerialize s = .next (succeed
      (setOutput (frame s.chLength s.chType (chunkData s) s.chCrc) (12 + s.chLength) s)) := by
  rw [execChunkSerialize, h]
  rfl

/-- The frame of the current chunk is 12 bytes and CH_LENGTH more (R212). -/
theorem chunkFrame_length (s : State) :
    (frame s.chLength s.chType (chunkData s) s.chCrc).length = 12 + s.chLength.toNat := by
  rw [frame_length, chunkData, readBytes_length]

/-- Settles O32: the frame is stored at the start of OBUF. -/
theorem chunkSerializeResult : Obligations.ChunkSerializeResult := by
  refine ⟨rfl, fun s => ⟨execChunkSerialize_of_noChunk, fun h =>
    ⟨Memory.store s.obuf 0 (frame s.chLength s.chType (chunkData s) s.chCrc), ?_, ?_, ?_⟩⟩⟩
  · rw [← twelve_add_eq_ofNat]
    exact execChunkSerialize_of_chunk h
  · rw [← chunkFrame_length]
    exact readBytes_of_store (m := s.obuf) rfl
  · rw [← chunkFrame_length]
    exact fun i hi => readByte_of_store_beyond (by rfl) (by rfl) hi

/-! ### CHUNK_PARSE: the checks in order (R213 to R217) -/

/-- The state after CHUNK_PARSE of an accepted frame (R213, R219). -/
def parsed (s : State) : State :=
  succeed (setConsumed (12 + frameLength s)
    (setChunk (frameType s) (frameLength s) (frameCrc s) (framePayload s) s))

theorem execChunkParse_of_overIbuf {s : State} (h : bufferSize s .ibuf < s.inLen.toNat) :
    execChunkParse s = .next (errorCommit .capacity s.inLen s) :=
  if_pos ((overIbuf_eq_true_iff s).mpr h)

theorem execChunkParse_of_short {s : State} (h : s.inLen.toNat < 12) :
    execChunkParse s = .next (errorCommit .tooShort s.inLen s) := by
  have hibuf : bufferSize s .ibuf = maxPayload s + 12 := rfl
  rw [execChunkParse, (overIbuf_eq_false_iff s).mpr (by omega)]
  exact if_pos h

/-- Settles O33. -/
theorem parseTooShort : Obligations.ParseTooShort := fun _ => execChunkParse_of_short

/-- With CAPACITY and TOO_SHORT passed the type is checked next, before any length (R215). -/
theorem execChunkParse_of_leastBad {s : State} {i : Nat} (hmin : 12 ≤ s.inLen.toNat)
    (hfits : s.inLen.toNat ≤ bufferSize s .ibuf) (hbad : LeastBad (bytesBE32 (frameType s)) i) :
    execChunkParse s = .next (errorCommit .notAlphabetic (BitVec.ofNat 32 i) s) := by
  have hcount : ¬ inCount s < 12 := Nat.not_lt.mpr hmin
  rw [execChunkParse, (overIbuf_eq_false_iff s).mpr hfits, if_neg Bool.false_ne_true,
    if_neg hcount, (leastBad_iff rfl i).mp hbad]
  rfl

/-- Settles O34. -/
theorem parseBadType : Obligations.ParseBadType := by
  intro s i hmin hfits hbad
  rw [← bytesBE32_readWord] at hbad
  exact execChunkParse_of_leastBad hmin hfits hbad

/-- With an alphabetic type, the checks of R216 and R217 are left. -/
theorem execChunkParse_of_alphaCode {s : State} (hmin : 12 ≤ s.inLen.toNat)
    (hfits : s.inLen.toNat ≤ bufferSize s .ibuf) (halpha : alphaCode (frameType s) = true) :
    execChunkParse s =
      if inCount s < 12 + (frameLength s).toNat then
        .next (errorCommit .truncated (frameLength s) s)
      else if chunkCrc (framePayload s) (frameType s) ≠ frameCrc s then
        .next (errorCommit .checksumMismatch (chunkCrc (framePayload s) (frameType s)) s)
      else .next (parsed s) := by
  have hcount : 12 ≤ inCount s := hmin
  rw [execChunkParse, (overIbuf_eq_false_iff s).mpr hfits, if_neg Bool.false_ne_true,
    if_neg (Nat.not_lt.mpr hcount), (firstNonAlpha_eq_none_iff _).mpr halpha]
  by_cases htrunc : inCount s < 12 + (frameLength s).toNat
  · rw [if_pos htrunc]
    by_cases hdata : inCount s - 8 < (frameLength s).toNat
    · exact if_pos hdata
    · exact (if_neg hdata).trans (if_pos (by omega))
  · rw [if_neg htrunc]
    exact (if_neg (by omega)).trans (if_neg (by omega))

/-- Settles O35: with 12 ≤ IN_LEN the subtractions of R213 do not pass 0. -/
theorem parseTruncated : Obligations.ParseTruncated := by
  intro s hmin hfits halpha
  refine ⟨by omega, fun htrunc => ?_⟩
  exact (execChunkParse_of_alphaCode hmin hfits halpha).trans (if_pos htrunc)

/-- A frame that fits IN_LEN comes to the checksum gate (R217). -/
theorem execChunkParse_of_framed {s : State} (hfits : s.inLen.toNat ≤ bufferSize s .ibuf)
    (halpha : alphaCode (frameType s) = true)
    (hframe : 12 + (frameLength s).toNat ≤ s.inLen.toNat) :
    execChunkParse s =
      if chunkCrc (framePayload s) (frameType s) ≠ frameCrc s then
        .next (errorCommit .checksumMismatch (chunkCrc (framePayload s) (frameType s)) s)
      else .next (parsed s) := by
  have hcount : ¬ inCount s < 12 + (frameLength s).toNat := Nat.not_lt.mpr hframe
  rw [execChunkParse_of_alphaCode (by omega) hfits halpha, if_neg hcount]

/-- Settles O36. -/
theorem parseChecksumGate : Obligations.ParseChecksumGate := by
  intro s hfits halpha hframe c hne
  exact (execChunkParse_of_framed hfits halpha hframe).trans (if_pos hne)

/-! ### CHUNK_PARSE of an accepted frame (R213, R218, R219) -/

theorem execChunkParse_of_accepted {s : State} (h : Accepted s) :
    execChunkParse s = .next (parsed s) := by
  obtain ⟨hfits, hframe, halpha, hcrc⟩ := h
  exact (execChunkParse_of_framed hfits halpha hframe).trans (if_neg (not_not_intro hcrc))

/-- Settles O37: the parsed chunk's payload is copied from IBUF[8..8+L). -/
theorem parseResult : Obligations.ParseResult := by
  refine ⟨rfl, fun s => ⟨execChunkParse_of_overIbuf, fun h =>
    ⟨Memory.store s.pbuf 0 (framePayload s), ?_, fun i => ?_, ?_⟩⟩⟩
  · rw [← twelve_add_eq_ofNat]
    exact execChunkParse_of_accepted h
  · exact readByte_pbuf_of_copy s 8 (frameLength s).toNat i
  · obtain ⟨-, -, -, hcrc⟩ := h
    exact hcrc.symm

end Sys2Proof.Machine
end

section
/-! PROOFS. A chunk constructed, serialized and copied back into IBUF parses to the same chunk, and
the standard PNG order of the CRC is refused (O38). -/

namespace Sys2Proof.Machine

open Sys2Proof.Claims

/-! ### The current chunk, and a frame read field by field -/

/-- The current chunk has the length `l`, the type `t`, the payload `p` and the CRC `c`. -/
structure HoldsChunk (s : State) (l t : Word) (p : List Byte) (c : Word) : Prop where
  valid : s.chValid = true
  type_eq : s.chType = t
  length_eq : s.chLength = l
  crc_eq : s.chCrc = c
  data_eq : chunkData s = p

theorem holdsChunk_self {s : State} (hv : s.chValid = true) :
    HoldsChunk s s.chLength s.chType (chunkData s) s.chCrc :=
  ⟨hv, rfl, rfl, rfl, rfl⟩

/-- OBUF and OUT_LEN hold the frame of such a chunk (R210, R212). -/
structure HoldsOutput (s : State) (l t : Word) (p : List Byte) (c : Word) : Prop where
  outLen_eq : s.outLen = 12 + l
  bytes_eq : readBytes s .obuf 0 (12 + l.toNat) = frame l t p c

/-- A byte of two equal ranges. -/
theorem readByte_of_readBytes_eq {s t : State} {b c : Buffer} {k j n i : Nat}
    (h : readBytes s b k n = readBytes t c j n) (hi : i < n) :
    readByte s b (k + i) = readByte t c (j + i) := by
  rw [← readBytes_getElem s b k n i hi, ← readBytes_getElem t c j n i hi]
  exact List.getElem_of_eq h _

/-- The payload is what has last been stored at the start of PBUF (R82). -/
theorem holdsChunk_of_store {s : State} {m : Memory} {p : List Byte} (hv : s.chValid = true)
    (hp : s.pbuf = Memory.store m 0 p) (hl : p.length = s.chLength.toNat) :
    HoldsChunk s s.chLength s.chType p s.chCrc :=
  ⟨hv, rfl, rfl, rfl, by rw [chunkData, ← hl]; exact readBytes_of_store hp⟩

theorem HoldsChunk.readByte_eq {s : State} {l t c : Word} {u : State} {b : Buffer} {k : Nat}
    (h : HoldsChunk s l t (readBytes u b k l.toNat) c) {i : Nat} (hi : i < l.toNat) :
    readByte s .pbuf i = readByte u b (k + i) := by
  have hdata : readBytes s .pbuf 0 l.toNat = readBytes u b k l.toNat := h.length_eq ▸ h.data_eq
  simpa using readByte_of_readBytes_eq hdata hi

/-- The four fields of a frame that stands at the start of IBUF (R113, R210). -/
theorem frameFields_of_readBytes {s : State} {l t c : Word} {p : List Byte}
    (hp : p.length = l.toNat) (h : readBytes s .ibuf 0 (12 + l.toNat) = frame l t p c) :
    frameLength s = l ∧ frameType s = t ∧ framePayload s = p ∧ frameCrc s = c := by
  have hsplit : readBytes s .ibuf 0 (12 + l.toNat) =
      readBytes s .ibuf 0 4 ++ readBytes s .ibuf 4 4 ++ readBytes s .ibuf 8 l.toNat ++
        readBytes s .ibuf (8 + l.toNat) 4 := by
    rw [show 12 + l.toNat = 4 + 4 + l.toNat + 4 by omega, readBytes_append, readBytes_append,
      readBytes_append]
    simp
  rw [hsplit, frame] at h
  obtain ⟨h, hcrc⟩ := List.append_inj h (by simp [hp])
  obtain ⟨h, hdata⟩ := List.append_inj h (by simp)
  obtain ⟨hlen, htype⟩ := List.append_inj h (by simp)
  have hl : frameLength s = l := (readWord_eq_iff ..).mpr hlen
  refine ⟨hl, (readWord_eq_iff ..).mpr htype, ?_, ?_⟩
  · rw [framePayload, hl]; exact hdata
  · rw [frameCrc, hl]; exact (readWord_eq_iff ..).mpr hcrc

/-! ### The three commands in terms of the chunk they hold -/

/-- CHUNK_NEW leaves the type and the input as the current chunk (R211). -/
theorem holdsChunk_of_chunkNew {s t : State} (h : succeedsWith .chunkNew s t) :
    HoldsChunk t s.inLen s.typeReg (inputBytes s) (chunkCrc (inputBytes s) s.typeReg) := by
  obtain ⟨-, -, rfl⟩ := h
  exact holdsChunk_of_store (m := s.pbuf) rfl rfl (readBytes_length ..)

/-- CHUNK_SERIALIZE leaves the current chunk's frame in OBUF (R212). -/
theorem HoldsChunk.output_of_chunkSerialize {s u : State} {l t c : Word} {p : List Byte}
    (hs : HoldsChunk s l t p c) (hu : succeedsWith .chunkSerialize s u) :
    HoldsOutput u l t p c := by
  obtain ⟨-, rfl, rfl, rfl, rfl⟩ := hs
  obtain ⟨-, rfl⟩ := hu
  refine ⟨rfl, ?_⟩
  rw [← chunkFrame_length]
  exact readBytes_of_store (m := s.obuf) rfl

/-- CHUNK_PARSE leaves the fields of the frame as the current chunk (R213, R219). -/
theorem holdsChunk_parsed (s : State) :
    HoldsChunk (parsed s) (frameLength s) (frameType s) (framePayload s) (frameCrc s) :=
  holdsChunk_of_store (m := s.pbuf) rfl rfl (readBytes_length ..)

theorem succeedsWith_parsed {s : State} (h : Accepted s) :
    succeedsWith .chunkParse s (parsed s) := by
  obtain ⟨hfits, hframe, halpha, hcrc⟩ := h
  exact ⟨(overIbuf_eq_false_iff s).mpr hfits, hframe, halpha, hcrc, rfl⟩

/-- A frame in IBUF with the fields of a good state's chunk is accepted (R222). -/
theorem accepted_of_chunkFields {s u : State} (hinv : Inv s) (hv : s.chValid = true)
    (hcaps : u.caps = s.caps) (hlen : u.inLen.toNat = 12 + s.chLength.toNat)
    (hfields : frameLength u = s.chLength ∧ frameType u = s.chType ∧ framePayload u = chunkData s ∧
      frameCrc u = s.chCrc) : Accepted u := by
  obtain ⟨hl, ht, hp, hc⟩ := hfields
  have hfits : s.chLength.toNat ≤ maxPayload s := hinv.chunkFits hv
  have hibuf : bufferSize u .ibuf = maxPayload s + 12 := by
    rw [bufferSize, maxPayload, hcaps]; rfl
  have hsize : 12 + (frameLength u).toNat ≤ u.inLen.toNat := by rw [hl, hlen]
  have halpha : alphaCode (frameType u) = true := ht ▸ hinv.chunkAlpha hv
  have hcrc : chunkCrc (framePayload u) (frameType u) = frameCrc u := by
    rw [hp, ht, hc, hinv.chunkCrcHolds hv]
  exact ⟨by omega, hsize, halpha, hcrc⟩

/-- CHUNK_PARSE of the frame of a good state's chunk, copied into IBUF, gives the chunk back
(R222). -/
theorem HoldsChunk.chunkParse {s u : State} {l t c : Word} {p : List Byte}
    (hs : HoldsChunk s l t p c) (hinv : Inv s) (hcaps : u.caps = s.caps)
    (hlen : u.inLen.toNat = 12 + l.toNat)
    (hframe : readBytes u .ibuf 0 (12 + l.toNat) = frame l t p c) :
    succeedsWith .chunkParse u (parsed u) ∧ HoldsChunk (parsed u) l t p c ∧
      (parsed u).consumed = 12 + l := by
  obtain ⟨hv, rfl, rfl, rfl, rfl⟩ := hs
  have hfields := frameFields_of_readBytes (readBytes_length ..) hframe
  have ⟨hl, ht, hp, hc⟩ := hfields
  refine ⟨succeedsWith_parsed (accepted_of_chunkFields hinv hv hcaps hlen hfields), ?_, hl ▸ rfl⟩
  have hchunk := holdsChunk_parsed u
  rwa [hl, ht, hp, hc] at hchunk

/-! ### The round trip (R222) -/

/-- A command that leaves ERR = OK has passed all its checks. -/
theorem succeedsWith_of_exec_ok {i : Instr} {s t : State} (h : exec i s = .next t)
    (hok : t.err = .ok) : succeedsWith i s t := by
  obtain ⟨u, hu, hcases⟩ := exec_cases i s
  cases h.symm.trans hu
  obtain ⟨e, info, he, -, -, rfl⟩ | hs := hcases
  · exact absurd hok he
  · exact hs

/-- A command all of whose checks pass succeeds. -/
theorem exec_of_succeedsWith {i : Instr} {s t : State} (h : succeedsWith i s t) :
    exec i s = .next t := by
  cases i with
  | ctFromBytes =>
    obtain ⟨halpha, rfl⟩ := h
    exact congrArg Host.Outcome.next (constructType_of_alphaCode halpha s)
  | ctFromText =>
    obtain ⟨hin, hmin, halpha, rfl⟩ := h
    exact (execCtFromText_of_checked hmin ((overIbuf_eq_false_iff s).mp hin)).trans
      (congrArg Host.Outcome.next (constructType_of_alphaCode halpha s))
  | crcBuf =>
    obtain ⟨hin, rfl⟩ := h
    exact execCrcBuf_of_fits ((overIbuf_eq_false_iff s).mp hin)
  | chunkNew =>
    obtain ⟨htype, hfits, rfl⟩ := h
    exact execChunkNew_of_fits htype ((overPayload_eq_false_iff s).mp hfits)
  | chunkSerialize =>
    obtain ⟨hvalid, rfl⟩ := h
    exact execChunkSerialize_of_chunk hvalid
  | chunkParse =>
    obtain ⟨hin, hframe, halpha, hcrc, rfl⟩ := h
    exact execChunkParse_of_accepted ⟨(overIbuf_eq_false_iff s).mp hin, hframe, halpha, hcrc⟩

/-- Settles O38: the frame copied back holds the chunk, whose CRC is R46's; and a type-first CRC that
differs from it fails the checksum gate. -/
theorem newSerializeParseRoundTrip : Obligations.NewSerializeParseRoundTrip := by
  refine ⟨fun s s1 s2 s3 hinv hnew hok hser hcaps hlen hcopy => ?_,
    fun s hfits halpha hframe => ?_⟩
  · have hnew := succeedsWith_of_exec_ok hnew hok
    have hinv1 : Inv s1 := hinv.succeedsWith hnew
    have hv : s1.chValid = true := (holdsChunk_of_chunkNew hnew).valid
    have hser : succeedsWith .chunkSerialize s1 s2 := by
      cases hser.symm.trans (execChunkSerialize_of_chunk hv)
      exact ⟨hv, rfl⟩
    have hs1 := holdsChunk_self hv
    have hout := hs1.output_of_chunkSerialize hser
    obtain ⟨hcaps2, -, -⟩ := succeedsWith_statusKept hser
    have hsize : s2.outLen.toNat = 12 + s1.chLength.toNat :=
      hout.outLen_eq ▸ hinv1.frameSize (hinv1.chunkFits hv)
    have hbytes : readBytes s3 .ibuf 0 (12 + s1.chLength.toNat) =
        readBytes s2 .obuf 0 (12 + s1.chLength.toNat) :=
      readBytes_congr fun i hi => hcopy (0 + i) (by omega)
    obtain ⟨hparse, hchunk, hconsumed⟩ := hs1.chunkParse hinv1 (hcaps.trans hcaps2)
      (hlen ▸ hsize) (hbytes.trans hout.bytes_eq)
    exact ⟨(succeedsWith_report hser).1, _, exec_of_succeedsWith hparse, rfl, hchunk.valid,
      hchunk.type_eq, hchunk.length_eq, hchunk.crc_eq,
      fun i hi => by simpa using hchunk.readByte_eq hi, hconsumed.trans hout.outLen_eq.symm⟩
  · intro p c hcrc hne
    exact parseChecksumGate s hfits halpha hframe (hne.trans_eq hcrc.symm)

end Sys2Proof.Machine
end

section
/-! PROOFS. The CRC sees a single changed byte, so a frame tampered with in its type, its payload or
its CRC field is refused (O40). -/

namespace Sys2Proof.Machine

open Sys2Proof.Claims

/-! ### The shift register loses nothing (R181) -/

/-- A bit step can be undone: bit 31 of the result is the bit shifted out, since bit 31 of the
polynomial is 1. -/
theorem crcBit_injective : Function.Injective crcBit := by
  intro r r' h
  have htop (x : Word) : (crcBit x).getLsbD 31 = x.getLsbD 0 := by
    have hpoly : crcPoly.getLsbD 31 = true := by decide
    unfold crcBit
    cases hx : x.getLsbD 0 <;> simp [hpoly]
  have hlow : r.getLsbD 0 = r'.getLsbD 0 := by rw [← htop, h, htop]
  have hrest : r >>> 1 = r' >>> 1 := by
    unfold crcBit at h
    rw [hlow] at h
    split at h
    · exact (BitVec.xor_left_inj crcPoly).mp h
    · exact h
  refine BitVec.eq_of_getLsbD_eq fun i _ => ?_
  cases i with
  | zero => exact hlow
  | succ i => simpa [Nat.add_comm] using congrArg (·.getLsbD i) hrest

theorem crcBits_injective (n : Nat) : Function.Injective (crcBits · n) := by
  induction n with
  | zero => exact fun _ _ h => h
  | succ n ih => exact ih.comp crcBit_injective

/-- The register after a string determines the register before it. -/
theorem foldl_crcByte_injective (s : List Byte) :
    Function.Injective fun r : Word => s.foldl crcByte r := by
  induction s with
  | nil => exact fun _ _ h => h
  | cons b s ih =>
    intro r r' h
    exact (BitVec.xor_left_inj (b.zeroExtend 32)).mp (crcBits_injective 8 (ih h))

/-- A byte widened for the bus or the register is its own low byte. -/
theorem extractLsb'_zeroExtend (b : Byte) : (b.zeroExtend 32).extractLsb' 0 8 = b := by
  ext i hi
  simp [hi, hi.trans (by decide : 8 < 32)]

/-- The register after a byte step determines the byte. -/
theorem crcByte_injective (r : Word) : Function.Injective (crcByte r) := by
  intro b b' h
  have hwide : b.zeroExtend 32 = b'.zeroExtend 32 :=
    (BitVec.xor_right_inj r).mp (crcBits_injective 8 h)
  rw [← extractLsb'_zeroExtend b, hwide, extractLsb'_zeroExtend]

/-! ### Strings that differ in one byte (R223) -/

/-- The strings have the same length and differ in exactly one byte. -/
def DifferInOneByte (u v : List Byte) : Prop :=
  ∃ a x y b, x ≠ y ∧ u = a ++ x :: b ∧ v = a ++ y :: b

namespace DifferInOneByte

variable {u v : List Byte}

theorem append_right (h : DifferInOneByte u v) (w : List Byte) :
    DifferInOneByte (u ++ w) (v ++ w) := by
  obtain ⟨a, x, y, b, hne, rfl, rfl⟩ := h
  exact ⟨a, x, y, b ++ w, hne, by simp, by simp⟩

theorem append_left (h : DifferInOneByte u v) (w : List Byte) :
    DifferInOneByte (w ++ u) (w ++ v) := by
  obtain ⟨a, x, y, b, hne, rfl, rfl⟩ := h
  exact ⟨w ++ a, x, y, b, hne, by simp, by simp⟩

protected theorem ne (h : DifferInOneByte u v) : u ≠ v := by
  obtain ⟨a, x, y, b, hne, rfl, rfl⟩ := h
  simpa using hne

/-- The register is the same before the byte, so it differs from there on. -/
theorem crc32_ne (h : DifferInOneByte u v) : crc32 u ≠ crc32 v := by
  obtain ⟨a, x, y, b, hne, rfl, rfl⟩ := h
  intro heq
  have hreg := (BitVec.xor_left_inj (0xFFFFFFFF : Word)).mp heq
  rw [List.foldl_append, List.foldl_append] at hreg
  exact hne (crcByte_injective _ (foldl_crcByte_injective b hreg))

end DifferInOneByte

/-! ### A frame with one byte changed -/

/-- IBUF differs from `s` to `s'` in its byte `j` only. -/
structure OnlyByteChanged (s s' : State) (j : Nat) : Prop where
  changed : readByte s' .ibuf j ≠ readByte s .ibuf j
  kept : ∀ i, i ≠ j → readByte s' .ibuf i = readByte s .ibuf i

namespace OnlyByteChanged

variable {s s' : State} {j : Nat}

theorem readBytes_eq (h : OnlyByteChanged s s' j) {k n : Nat} (hj : j < k ∨ k + n ≤ j) :
    readBytes s' .ibuf k n = readBytes s .ibuf k n :=
  readBytes_congr fun i hi => h.kept (k + i) (by omega)

theorem readWord_eq (h : OnlyByteChanged s s' j) {k : Nat} (hj : j < k ∨ k + 4 ≤ j) :
    readWord s' .ibuf k = readWord s .ibuf k := by
  rw [readWord_eq_iff, bytesBE32_readWord]
  exact h.readBytes_eq hj

/-- A range that holds the changed byte. -/
theorem differInOneByte (h : OnlyByteChanged s s' j) {k n : Nat} (hk : k ≤ j) (hn : j < k + n) :
    DifferInOneByte (readBytes s .ibuf k n) (readBytes s' .ibuf k n) := by
  obtain ⟨m, rfl⟩ := Nat.exists_eq_add_of_le hk
  obtain ⟨d, rfl⟩ : ∃ d, n = m + (d + 1) := Nat.exists_eq_add_of_lt (by omega : m < n)
  have hbelow := h.readBytes_eq (k := k) (n := m) (.inr (Nat.le_refl _))
  have habove := h.readBytes_eq (k := k + m + 1) (n := d) (.inl (Nat.lt_succ_self _))
  refine ⟨readBytes s .ibuf k m, _, _, readBytes s .ibuf (k + m + 1) d, h.changed.symm, ?_, ?_⟩
  · rw [readBytes_append]; rfl
  · rw [readBytes_append, hbelow, readBytes, habove]

/-- A change in the type or the payload changes the recomputed CRC. -/
theorem chunkCrc_ne (h : OnlyByteChanged s s' j) {n : Nat} (hlow : 4 ≤ j) (hhigh : j < 8 + n) :
    chunkCrc (readBytes s .ibuf 8 n) (readWord s .ibuf 4) ≠
      chunkCrc (readBytes s' .ibuf 8 n) (readWord s' .ibuf 4) := by
  rw [chunkCrc, chunkCrc, bytesBE32_readWord, bytesBE32_readWord]
  by_cases hj : j < 8
  · rw [h.readBytes_eq (.inl hj)]
    exact ((h.differInOneByte hlow hj).append_left _).crc32_ne
  · rw [h.readBytes_eq (k := 4) (.inr (not_lt.mp hj))]
    exact ((h.differInOneByte (not_lt.mp hj) hhigh).append_right _).crc32_ne

/-- A change in a field changes the word read from it. -/
theorem readWord_ne (h : OnlyByteChanged s s' j) {k : Nat} (hlow : k ≤ j) (hhigh : j < k + 4) :
    readWord s .ibuf k ≠ readWord s' .ibuf k := by
  rw [ne_eq, readWord_eq_iff, bytesBE32_readWord]
  exact (h.differInOneByte hlow hhigh).ne

end OnlyByteChanged

/-- Settles O40: of the recomputed and the declared CRC exactly one changes. -/
theorem tamperedFrameIsRejected : Obligations.TamperedFrameIsRejected := by
  intro s s' j haccepted hcaps hin hlow hhigh hchanged hkept halpha
  obtain ⟨hfits, hframe, -, hcrc⟩ := haccepted
  have h : OnlyByteChanged s s' j := ⟨hchanged, hkept⟩
  have hlen : readWord s' .ibuf 0 = readWord s .ibuf 0 := h.readWord_eq (.inr hlow)
  have hfits' : s'.inLen.toNat ≤ bufferSize s' .ibuf := by
    rw [hin, bufferSize, maxPayload, hcaps]; exact hfits
  have hgate := parseChecksumGate s' hfits' halpha (by rw [hlen, hin]; exact hframe)
  rw [hlen] at hgate
  by_cases hj : 8 + (readWord s .ibuf 0).toNat ≤ j
  · have hsame : crc32 (readBytes s' .ibuf 8 (readWord s .ibuf 0).toNat ++
        bytesBE32 (readWord s' .ibuf 4)) = readWord s .ibuf (8 + (readWord s .ibuf 0).toNat) := by
      rw [h.readBytes_eq (.inr hj), h.readWord_eq (k := 4) (.inr (by omega)), hcrc]
    exact ⟨_, hgate (hsame.trans_ne (h.readWord_ne hj (by omega))), fun _ => hsame⟩
  · refine ⟨_, hgate ?_, fun hle => absurd hle hj⟩
    rw [h.readWord_eq (k := 8 + _) (.inl (by omega)), ← hcrc]
    exact (h.chunkCrc_ne hlow (by omega)).symm

end Sys2Proof.Machine
end

section
/-! PROOFS. The round trip of R222 on the bus: what the host's statements RUN, COPY and SETLEN reach
from an idle state on the empty schedule (log entry 5), and the five of them in a row (O39). -/

namespace Sys2Proof.Machine

open Sys2Proof.Claims

/-! ### Runs of any length -/

/-- Some number of steps leads from the one state to the other. -/
def Reaches : State → State → Prop := Relation.ReflTransGen fun s t => step s = .next t

namespace Reaches

variable {s t u : State}

theorem of_step (h : step s = .next t) : Reaches s t := Relation.ReflTransGen.single h

protected theorem trans (h : Reaches s t) (h' : Reaches t u) : Reaches s u :=
  Relation.ReflTransGen.trans h h'

theorem exists_run (h : Reaches s t) :
    ∃ k, Host.Core.run Sys2Proof.core k s = .next t := by
  induction h using Relation.ReflTransGen.head_induction_on with
  | refl => exact ⟨0, rfl⟩
  | head hstep _ ih =>
    obtain ⟨k, hk⟩ := ih
    exact ⟨k + 1, (run_succ k _ _ hstep).trans hk⟩

/-- O58 along a run. -/
theorem inv (h : Reaches s t) (hinv : Inv s) : Inv t := by
  induction h with
  | refl => exact hinv
  | tail _ hstep ih => exact everyStepKeepsTheInvariant _ _ ih hstep

end Reaches

/-! ### The host's turn on the empty schedule -/

/-- The block waits for the host: rst_n is high, BUSY = 0 and no turn is scheduled. -/
structure Idle (s : State) : Prop where
  high : s.rst = .high
  notBusy : s.pendValid = false
  noTurns : s.turns = []

theorem dropTurn_of_noTurns {s : State} (h : s.turns = []) : dropTurn s = s := by
  cases s
  cases h
  rfl

theorem Idle.step_hostAct {s : State} {op : HostOp} {rest : List HostOp} (h : Idle s)
    (hh : s.host = op :: rest) : step s = .next (hostAct op rest s) := by
  have hn : nextTurn s = .host := by simp [nextTurn, h.noTurns, h.notBusy, h.high]
  rw [Machine.step_hostAct hn h.high hh, dropTurn_of_noTurns h.noTurns]

/-- A response and the host's moving on leave the block idle. -/
theorem Idle.setHost_respond {s : State} (h : Idle s) (p : List HostOp) (r : Response) :
    Idle (setHost p (respond r s)) :=
  ⟨h.high, h.notBusy, h.noTurns⟩

theorem Idle.setIbufByte {s : State} (h : Idle s) (k : Nat) (b : Byte) : Idle (setIbufByte k b s) :=
  ⟨h.high, h.notBusy, h.noTurns⟩

theorem Idle.setInLen {s : State} (h : Idle s) (n : Word) : Idle (setInLen n s) :=
  ⟨h.high, h.notBusy, h.noTurns⟩

/-- From the idle state `s` the block comes to the idle state `t`, where the host has `rest` left. -/
structure GoesOnTo (s t : State) (rest : List HostOp) : Prop where
  reaches : Reaches s t
  idle : Idle t
  host_eq : t.host = rest

theorem GoesOnTo.trans {s t u : State} {p q : List HostOp} (h : GoesOnTo s t p)
    (h' : GoesOnTo t u q) : GoesOnTo s u q :=
  ⟨h.reaches.trans h'.reaches, h'.idle, h'.host_eq⟩

/-! ### RUN (R117) -/

section

variable {i : Instr} {s u : State} {rest : List HostOp}

/-- The command `i` has just been accepted, and the host waits for it before it does `rest`. -/
def inFlight (i : Instr) (rest : List HostOp) (s : State) : State :=
  setHost (.wait :: rest) (respond okayWrite (accept (encode i) s))

/-- The host has seen BUSY = 0 and goes on to `rest`. -/
def waited (rest : List HostOp) (s : State) : State :=
  setHost rest (respond (okayRead (statusWord s)) s)

theorem step_acceptance (h : Idle s) (hh : s.host = (Stmt.run i).expand ++ rest) :
    step s = .next (inFlight i rest s) := by
  rw [h.step_hostAct hh, hostAct, transact, busAccess_writeReg (r := .cmd) rfl rfl rfl, writeReg,
    h.notBusy]
  rfl

/-- On the empty schedule the engine moves next, and commits. -/
theorem step_inFlight (h : Idle s) : step (inFlight i rest s) = exec i (inFlight i rest s) := by
  have hts : (inFlight i rest s).turns = [] := h.noTurns
  have hp : (inFlight i rest s).pendValid = true := rfl
  have hn : nextTurn (inFlight i rest s) = .clk true := by simp [nextTurn, hts, hp]
  have hcmd : decode (inFlight i rest s).pendCmd = some i := decode_encode i
  rw [step_commit hn hp h.high, dropTurn_of_noTurns hts, runPending, hcmd]

theorem step_wait (h : Idle s) (hh : s.host = .wait :: rest) : step s = .next (waited rest s) := by
  rw [h.step_hostAct hh, hostAct, statusWord_getLsbD_0, h.notBusy, transact, busAccess_readStatus]
  rfl

/-- RUN of a command that succeeds: acceptance, commit and WAIT's one read. -/
theorem goesOnTo_run (h : Idle s) (hh : s.host = (Stmt.run i).expand ++ rest)
    (hu : succeedsWith i (inFlight i rest s) u) : GoesOnTo s (waited rest u) rest := by
  have hexec := exec_of_succeedsWith hu
  obtain ⟨-, -, -, -, -, -, -, hrst, -, hhost, hturns, -⟩ :=
    commandsWriteOnlyTheirOutputs i _ u hexec
  have hidle : Idle u :=
    ⟨hrst.trans h.high, succeedsWith_pendValid hu, hturns.trans h.noTurns⟩
  have hcommit := (step_inFlight (i := i) (rest := rest) h).trans hexec
  have hreach : Reaches s (waited rest u) :=
    (Reaches.of_step (step_acceptance h hh)).trans
      ((Reaches.of_step hcommit).trans (.of_step (step_wait hidle hhost)))
  exact ⟨hreach, hidle.setHost_respond _ _, rfl⟩

end

/-! ### The two commands that make the frame -/

/-- The chunk stays where only the host has moved. -/
theorem HoldsChunk.of_engineSideKept {s u : State} {l t c : Word} {p : List Byte}
    (h : HoldsChunk s l t p c) (hk : EngineSideKept s u) : HoldsChunk u l t p c := by
  have hlen : u.chLength = s.chLength := by rw [hk.eq]
  have hdata : chunkData u = chunkData s := by
    rw [chunkData, hlen]
    exact readBytes_congr fun i _ => hk.readByte_eq (by decide) (0 + i)
  exact ⟨by rw [hk.eq]; exact h.valid, by rw [hk.eq]; exact h.type_eq, hlen.trans h.length_eq,
    by rw [hk.eq]; exact h.crc_eq, hdata.trans h.data_eq⟩

theorem HoldsOutput.of_engineSideKept {s u : State} {l t c : Word} {p : List Byte}
    (h : HoldsOutput s l t p c) (hk : EngineSideKept s u) : HoldsOutput u l t p c := by
  have hbytes : readBytes u .obuf 0 (12 + l.toNat) = readBytes s .obuf 0 (12 + l.toNat) :=
    readBytes_congr fun i _ => hk.readByte_eq (by decide) (0 + i)
  exact ⟨by rw [hk.eq]; exact h.outLen_eq, hbytes.trans h.bytes_eq⟩

/-- CHUNK_SERIALIZE reads the current chunk and leaves it. -/
theorem HoldsChunk.of_chunkSerialize {s u : State} {l t c : Word} {p : List Byte}
    (h : HoldsChunk s l t p c) (hu : succeedsWith .chunkSerialize s u) : HoldsChunk u l t p c := by
  obtain ⟨-, rfl⟩ := hu
  exact ⟨h.valid, h.type_eq, h.length_eq, h.crc_eq,
    by rw [← h.data_eq]; exact readBytes_congr fun _ _ => rfl⟩

/-- RUN CHUNK_NEW with a type and an input that fits (R211). -/
theorem goesOnTo_chunkNew {s : State} {rest : List HostOp} (h : Idle s)
    (hh : s.host = (Stmt.run .chunkNew).expand ++ rest) (htype : s.typeValid = true)
    (hfits : s.inLen.toNat ≤ maxPayload s) :
    ∃ t, GoesOnTo s t rest ∧
      HoldsChunk t s.inLen s.typeReg (inputBytes s) (chunkCrc (inputBytes s) s.typeReg) := by
  have hinput : inputBytes (inFlight .chunkNew rest s) = inputBytes s :=
    readBytes_congr fun _ _ => rfl
  obtain ⟨u, hu⟩ : ∃ u, succeedsWith .chunkNew (inFlight .chunkNew rest s) u :=
    ⟨_, htype, (overPayload_eq_false_iff _).mpr hfits, rfl⟩
  have hchunk := holdsChunk_of_chunkNew hu
  rw [hinput] at hchunk
  exact ⟨_, goesOnTo_run h hh hu, hchunk.of_engineSideKept rfl⟩

/-- RUN CHUNK_SERIALIZE with a current chunk (R212). -/
theorem goesOnTo_chunkSerialize {s : State} {rest : List HostOp} {l t c : Word} {p : List Byte}
    (h : Idle s) (hh : s.host = (Stmt.run .chunkSerialize).expand ++ rest)
    (hs : HoldsChunk s l t p c) :
    ∃ u, GoesOnTo s u rest ∧ HoldsChunk u l t p c ∧ HoldsOutput u l t p c := by
  have ha : HoldsChunk (inFlight .chunkSerialize rest s) l t p c := hs.of_engineSideKept rfl
  obtain ⟨u, hu⟩ : ∃ u, succeedsWith .chunkSerialize (inFlight .chunkSerialize rest s) u :=
    ⟨_, ha.valid, rfl⟩
  exact ⟨_, goesOnTo_run h hh hu, (ha.of_chunkSerialize hu).of_engineSideKept rfl,
    (ha.output_of_chunkSerialize hu).of_engineSideKept rfl⟩

/-! ### COPY and SETLEN (R117) -/

/-- Every byte of a buffer has an offset of 30 bits (R81, R82). -/
theorem Inv.bufferSize_le {s : State} (h : Inv s) (b : Buffer) : bufferSize s b ≤ 2 ^ 30 := by
  have hcaps : 1 ≤ maxPayload s ∧ maxPayload s ≤ 2 ^ 30 - 12 := of_decide_eq_true h.capsLegal
  cases b <;> simp only [bufferSize, Config.frameOverhead] <;> omega

/-- `R8 B+k` of a byte of the buffer (R89). -/
theorem busAccess_readReq8 {s : State} (hinv : Inv s) {b : Buffer} {k : Nat}
    (hk : k < bufferSize s b) :
    busAccess (readReq8 (bufAddr b k)) s = (s, okayRead ((readByte s b k).zeroExtend 32)) := by
  obtain ⟨hw, ho⟩ := bufAddr_mapped b (hk.trans_le (hinv.bufferSize_le b))
  have hread := busAccess_readBuf (q := readReq8 (bufAddr b k)) rfl rfl hw (ho.trans_lt hk)
  rwa [show offsetOf (readReq8 (bufAddr b k)).addr = k from ho] at hread

/-- `W8 IBUF+k` of a byte of the buffer while BUSY = 0 (R89). -/
theorem busAccess_writeReq8 {s : State} (hinv : Inv s) (hp : s.pendValid = false) {k : Nat}
    (hk : k < bufferSize s .ibuf) (v : Byte) :
    busAccess (writeReq8 (bufAddr .ibuf k) v) s = (setIbufByte k v s, okayWrite) := by
  obtain ⟨hw, ho⟩ := bufAddr_mapped .ibuf (hk.trans_le (hinv.bufferSize_le .ibuf))
  have hwrite :=
    busAccess_writeIbuf (q := writeReq8 (bufAddr .ibuf k) v) rfl rfl hw (ho.trans_lt hk)
  rw [show offsetOf (writeReq8 (bufAddr .ibuf k) v).addr = k from ho, hp] at hwrite
  exact hwrite.trans (by rw [writeReq8, extractLsb'_zeroExtend]; rfl)

theorem readByte_setHost_respond (p : List HostOp) (r : Response) (s : State) (b : Buffer)
    (i : Nat) : readByte (setHost p (respond r s)) b i = readByte s b i := by
  cases b <;> rfl

/-- The host has read byte `k` of OBUF and goes on to write it to IBUF. -/
def byteRead (k : Nat) (rest : List HostOp) (s : State) : State :=
  setHost (.bus (writeReq8 (bufAddr .ibuf k) (readByte s .obuf k)) :: rest)
    (respond (okayRead ((readByte s .obuf k).zeroExtend 32)) s)

/-- The host has written the byte to IBUF. -/
def byteCopied (k : Nat) (rest : List HostOp) (s : State) : State :=
  setHost rest (respond okayWrite (setIbufByte k (readByte s .obuf k) (byteRead k rest s)))

/-- One element of COPY: the byte is read from OBUF and written to IBUF. -/
theorem goesOnTo_copyByte {s : State} {rest : List HostOp} {k : Nat} (hinv : Inv s) (h : Idle s)
    (hh : s.host = .copyByte (bufAddr .obuf k) (bufAddr .ibuf k) :: rest)
    (hk : k < bufferSize s .ibuf) :
    ∃ t, GoesOnTo s t rest ∧ EngineSideKept s t ∧
      ∀ i, readByte t .ibuf i = if i = k then readByte s .obuf k else readByte s .ibuf i := by
  have hread : step s = .next (byteRead k rest s) := by
    rw [h.step_hostAct hh, hostAct, transact, busAccess_readReq8 hinv (b := .obuf) hk]
    simp only [okayRead, Option.getD_some, extractLsb'_zeroExtend]
    rfl
  have hinv' : Inv (byteRead k rest s) := everyStepKeepsTheInvariant _ _ hinv hread
  have hidle : Idle (byteRead k rest s) := h.setHost_respond _ _
  have hwrite : step (byteRead k rest s) = .next (byteCopied k rest s) := by
    rw [hidle.step_hostAct rfl, hostAct, transact, busAccess_writeReq8 hinv' h.notBusy hk]
    rfl
  have hkept : EngineSideKept s (byteRead k rest s) := rfl
  refine ⟨byteCopied k rest s, ⟨(Reaches.of_step hread).trans (.of_step hwrite),
    (hidle.setIbufByte _ _).setHost_respond _ _, rfl⟩, hkept.trans rfl, fun i => ?_⟩
  rw [byteCopied, readByte_setHost_respond, readByte_setIbufByte, byteRead,
    readByte_setHost_respond]

/-- COPY carries a range of OBUF to IBUF byte by byte, by induction on its length. -/
theorem goesOnTo_copyOps {s : State} {rest : List HostOp} {k n : Nat} (hinv : Inv s) (h : Idle s)
    (hh : s.host = copyOps k n ++ rest) (hk : k + n ≤ bufferSize s .ibuf) :
    ∃ t, GoesOnTo s t rest ∧ EngineSideKept s t ∧
      ∀ i, readByte t .ibuf i =
        if k ≤ i ∧ i < k + n then readByte s .obuf i else readByte s .ibuf i := by
  induction n generalizing s k with
  | zero =>
    exact ⟨s, ⟨.refl, h, hh⟩, rfl, fun i => (if_neg (by omega)).symm⟩
  | succ n ih =>
    obtain ⟨u, hu, hkept, hbyte⟩ := goesOnTo_copyByte hinv h hh (by omega)
    have hsize : bufferSize u .ibuf = bufferSize s .ibuf := by rw [hkept.eq]; rfl
    obtain ⟨t, ht, hkept', hrest⟩ := ih (hu.reaches.inv hinv) hu.idle hu.host_eq (by omega)
    refine ⟨t, hu.trans ht, hkept.trans hkept', fun i => ?_⟩
    rw [hrest, hbyte, hkept.readByte_eq (by decide)]
    by_cases hi : i = k
    · subst hi
      rw [if_neg (by omega), if_pos rfl, if_pos (by omega)]
    · rw [if_neg hi]
      exact if_congr (by omega) rfl rfl

/-- SETLEN while BUSY = 0 (R40). -/
theorem goesOnTo_setLen {s : State} {rest : List HostOp} {n : Word} (h : Idle s)
    (hh : s.host = (Stmt.setLen n).expand ++ rest) :
    GoesOnTo s (setHost rest (respond okayWrite (setInLen n s))) rest := by
  have hstep : step s = .next (setHost rest (respond okayWrite (setInLen n s))) := by
    rw [h.step_hostAct hh, hostAct, transact, busAccess_writeReg (r := .inLen) rfl rfl rfl,
      writeReg, h.notBusy]
    rfl
  exact ⟨.of_step hstep, (h.setInLen n).setHost_respond _ _, rfl⟩

/-- COPY of the frame in OBUF and SETLEN of its size bring it to the start of IBUF as the input. -/
theorem goesOnTo_copyBack {s : State} {rest : List HostOp} {n : Nat} {w : Word} (hinv : Inv s)
    (h : Idle s) (hh : s.host = (Stmt.copy n).expand ++ ((Stmt.setLen w).expand ++ rest))
    (hn : n ≤ bufferSize s .ibuf) :
    ∃ t, GoesOnTo s t rest ∧ EngineSideKept s t ∧ t.inLen = w ∧
      readBytes t .ibuf 0 n = readBytes s .obuf 0 n := by
  obtain ⟨u, hu, hkept, hbyte⟩ := goesOnTo_copyOps hinv h hh (k := 0) (by omega)
  refine ⟨_, hu.trans (goesOnTo_setLen hu.idle hu.host_eq), hkept.trans rfl, rfl, ?_⟩
  exact readBytes_congr fun i hi => (hbyte (0 + i)).trans (if_pos (by omega))

/-! ### The round trip -/

/-- RUN CHUNK_PARSE of the copied frame gives the chunk again, with CONSUMED the frame's size
(R222). -/
theorem goesOnTo_chunkParse {s u : State} {rest : List HostOp} {l t c : Word} {p : List Byte}
    (hinv : Inv s) (hs : HoldsChunk s l t p c) (hcaps : u.caps = s.caps) (h : Idle u)
    (hh : u.host = (Stmt.run .chunkParse).expand ++ rest) (hlen : u.inLen.toNat = 12 + l.toNat)
    (hframe : readBytes u .ibuf 0 (12 + l.toNat) = frame l t p c) :
    ∃ v, GoesOnTo u v rest ∧ HoldsChunk v l t p c ∧ v.consumed = 12 + l ∧ v.outLen = u.outLen ∧
      v.err = .ok ∧ v.lastOp = 0x22 := by
  have hbytes : readBytes (inFlight .chunkParse rest u) .ibuf 0 (12 + l.toNat) =
      readBytes u .ibuf 0 (12 + l.toNat) := readBytes_congr fun _ _ => rfl
  obtain ⟨hparse, hchunk, hconsumed⟩ := hs.chunkParse (u := inFlight .chunkParse rest u) hinv
    hcaps hlen (hbytes.trans hframe)
  exact ⟨_, goesOnTo_run h hh hparse, hchunk.of_engineSideKept rfl, hconsumed, rfl, rfl,
    encode_op .chunkParse⟩

/-- Settles O39: the five statements in a row, with the chunk of the first carried along. -/
theorem roundTripOverTheBus : Obligations.RoundTripOverTheBus := by
  intro s hinv hr hp hts htype hfits hh
  obtain ⟨s1, h1, hchunk1⟩ := goesOnTo_chunkNew ⟨hr, hp, hts⟩ hh htype hfits
  obtain ⟨s2, h2, hchunk2, hout2⟩ := goesOnTo_chunkSerialize h1.idle h1.host_eq hchunk1
  have h12 := h1.trans h2
  have hinv2 : Inv s2 := h12.reaches.inv hinv
  have hfits2 : s.inLen.toNat ≤ maxPayload s2 := hchunk2.length_eq ▸ hinv2.chunkFits hchunk2.valid
  have hsize : (12 + s.inLen).toNat = 12 + s.inLen.toNat := hinv2.frameSize hfits2
  have hibuf : bufferSize s2 .ibuf = maxPayload s2 + 12 := rfl
  obtain ⟨s3, h3, hkept, hlen, hbytes⟩ :=
    goesOnTo_copyBack hinv2 h2.idle h2.host_eq (by omega)
  have hlen3 : s3.inLen.toNat = 12 + s.inLen.toNat := by
    rw [hlen, ← twelve_add_eq_ofNat, hsize]
  obtain ⟨t, h4, hchunk, hconsumed, hout, herr, hlast⟩ := goesOnTo_chunkParse hinv2 hchunk2
    (by rw [hkept.eq]) h3.idle h3.host_eq hlen3 (hbytes.trans hout2.bytes_eq)
  have hall := (h12.trans h3).trans h4
  have hout' : t.outLen = 12 + s.inLen := by rw [hout, hkept.eq]; exact hout2.outLen_eq
  obtain ⟨k, hrun⟩ := hall.reaches.exists_run
  exact ⟨k, t, hrun, hall.host_eq, hall.idle.notBusy, herr, hlast, hchunk.valid, hchunk.type_eq,
    hchunk.length_eq, hchunk.crc_eq, fun i hi => by simpa using hchunk.readByte_eq hi,
    hconsumed.trans hout'.symm, hout' ▸ hsize⟩

end Sys2Proof.Machine
end

section
/-! PROOFS. The STATUS register: its fields, its reset value and a host write to it (O8). -/

namespace Sys2Proof.Machine

/-! ### The fields of STATUS (R34) -/

theorem statusWord_ovr (s : State) : (statusWord s).getLsbD 1 = s.ovr := by
  rw [statusWord, BitVec.getLsbD_append, if_neg (Nat.lt_irrefl 1), BitVec.getLsbD_append,
    if_pos (by decide), BitVec.getLsbD_ofBool]
  exact Bool.true_and _

/-- Each field of STATUS above its two flags, found by passing over the fields beside it. -/
theorem statusWord_fields (s : State) :
    (statusWord s).extractLsb' 2 6 = 0 ∧ (statusWord s).extractLsb' 8 8 = s.err.code ∧
      (statusWord s).extractLsb' 16 8 = s.lastOp ∧ (statusWord s).extractLsb' 24 8 = 0 := by
  refine ⟨?_, ?_, ?_, ?_⟩ <;>
    · simp (disch := decide) only [statusWord, BitVec.extractLsb'_append_eq_of_le,
        BitVec.extractLsb'_append_eq_of_add_le]
      exact BitVec.extractLsb'_eq_self

/-- STATUS sees neither MAX_PAYLOAD nor the count of resets, so one reset table stands for all. -/
theorem statusWord_resetOf (m : Word) (d : Nat) : statusWord (State.resetOf m d) = 0 :=
  show statusWord State.reset = 0 by decide

/-- Settles O8: the fields, the accesses to a read-only register, and the table of R262. -/
theorem statusLayout : Obligations.StatusLayout := by
  refine ⟨fun s => ?_, statusWord_resetOf, rfl, rfl, rfl, rfl, rfl, rfl, rfl, rfl, rfl, rfl⟩
  obtain ⟨hzero, herr, hlast, htop⟩ := statusWord_fields s
  exact ⟨statusWord_getLsbD_0 s, statusWord_ovr s, hzero, herr, hlast, htop,
    busAccess_readStatus s, fun _ => busAccess_writeReg (r := .status) rfl rfl rfl s⟩

end Sys2Proof.Machine
end

section
/-! PROOFS. What a commit reports: an illegal word its own error (O5), a command the first failing
check of its table or a success (O41); and that every command completes (O43). -/

namespace Sys2Proof.Machine

open Sys2Proof.Claims

/-! ### An illegal word (R264) -/

theorem runPending_illegal {s : State} (h : decode s.pendCmd = none) :
    runPending s = .next (errorCommit .illegalCommand s.pendCmd s) := by
  rw [runPending, h]
  rfl

theorem runPending_legal {s : State} {i : Instr} (h : decode s.pendCmd = some i) :
    runPending s = exec i s := by
  rw [runPending, h]

/-- Settles O5: the committing edge takes its turn off the schedule, then comes the error commit. -/
theorem illegalWordCommitsOnlyItsError : Obligations.IllegalWordCommitsOnlyItsError :=
  fun s hn hp hr hd => (step_commit hn hp hr).trans (runPending_illegal (s := dropTurn s) hd)

/-! ### Every command completes (R260, R266) -/

/-- R266: a command's commit, failed or not, clears BUSY. -/
theorem exec_pendValid (i : Instr) (s : State) :
    ∃ t, exec i s = .next t ∧ t.pendValid = false := by
  obtain ⟨t, ht, ⟨e, info, -, -, -, rfl⟩ | hs⟩ := exec_cases i s
  · exact ⟨_, ht, rfl⟩
  · exact ⟨t, ht, succeedsWith_pendValid hs⟩

/-- Settles O43: `exec_pendValid`, and the one stop that `step_stops` leaves. -/
theorem everyCommandCompletes : Obligations.EveryCommandCompletes :=
  ⟨exec_pendValid, fun _ => or_iff_not_imp_left.mpr step_stops⟩

/-! ### The alphabetic check of the table (R140, R263) -/

/-- Where the leading letters end is the model's first non-alphabetic index. -/
theorem leadingAlpha_eq_findIdx (c : List Byte) :
    leadingAlpha c = c.findIdx (fun b => !isAlpha b) := by
  rw [leadingAlpha, List.takeWhile_eq_take_findIdx_not, List.length_take,
    min_eq_left List.findIdx_le_length]

theorem leastBad_leadingAlpha {c : List Byte} (hlen : c.length = 4) (h : leadingAlpha c < 4) :
    LeastBad c (leadingAlpha c) := by
  rw [leastBad_iff hlen, firstNonAlpha, List.findIdx?_eq_some_iff_findIdx_eq, hlen]
  exact ⟨h, (leadingAlpha_eq_findIdx c).symm⟩

theorem alphaCode_of_leadingAlpha {t : Word} (h : ¬ leadingAlpha (bytesBE32 t) < 4) :
    alphaCode t = true := by
  have hle : (bytesBE32 t).findIdx (fun b => !isAlpha b) ≤ 4 := List.findIdx_le_length
  rw [leadingAlpha_eq_findIdx] at h
  rw [alphaCode, ← firstNonAlpha_eq_none_iff, firstNonAlpha, List.findIdx?_eq_none_iff_findIdx_eq,
    bytesBE32_length]
  omega

/-! ### The table of checks (R267) -/

/-- The outcome `o` of a command in the state `s` is what the table of checks `cs` says of it: the
error commit of the first failing check, or a success where none fails (R261, R267). -/
structure Reports (s : State) (cs : List (Bool × ResultCode × Word))
    (o : Host.Outcome State Fault Refusal) : Prop where
  error : ∀ {b e info}, cs.find? (fun c => c.1) = some (b, e, info) →
    o = .next (errorCommit e info s)
  success : cs.find? (fun c => c.1) = none →
    ∃ t, o = .next t ∧ t.err = .ok ∧ t.errInfo = 0 ∧ t.pendValid = false

namespace Reports

variable {s : State} {cs : List (Bool × ResultCode × Word)}
  {o : Host.Outcome State Fault Refusal}

/-- With no check left, the success commit. -/
theorem succeeded {t : State} (h : o = .next (succeed t)) : Reports s [] o :=
  ⟨nofun, fun _ => ⟨succeed t, h, rfl, rfl, rfl⟩⟩

/-- The table's first check decides: it is reported where it fails, else the rest is. -/
theorem check {b : Bool} {e : ResultCode} {info : Word}
    (hfail : b = true → o = .next (errorCommit e info s)) (hpass : b = false → Reports s cs o) :
    Reports s ((b, e, info) :: cs) o := by
  cases b with
  | true => exact ⟨fun h => by cases h; exact hfail rfl, nofun⟩
  | false => exact ⟨(hpass rfl).error, (hpass rfl).success⟩

/-- `check` for a check that decides a proposition. -/
theorem checkDecide {p : Prop} [Decidable p] {e : ResultCode} {info : Word}
    (hfail : p → o = .next (errorCommit e info s)) (hpass : ¬ p → Reports s cs o) :
    Reports s ((decide p, e, info) :: cs) o :=
  check (fun h => hfail (of_decide_eq_true h)) (fun h => hpass (of_decide_eq_false h))

/-- The alphabetic check of a packed code, with the least failing index as its value (R140). -/
theorem alphaCheck {t : Word} {c : List Byte} (hc : bytesBE32 t = c)
    (hfail : ∀ i, LeastBad (bytesBE32 t) i →
      o = .next (errorCommit .notAlphabetic (BitVec.ofNat 32 i) s))
    (hpass : alphaCode t = true → Reports s cs o) :
    Reports s
      ((decide (leadingAlpha c < 4), .notAlphabetic, BitVec.ofNat 32 (leadingAlpha c)) :: cs) o := by
  subst hc
  exact checkDecide (fun h => hfail _ (leastBad_leadingAlpha rfl h))
    (fun h => hpass (alphaCode_of_leadingAlpha h))

/-- The type construction that ends CT_FROM_BYTES and CT_FROM_TEXT. -/
theorem constructed {t : Word} {c : List Byte} (hc : bytesBE32 t = c)
    (h : o = .next (constructType t s)) :
    Reports s [(decide (leadingAlpha c < 4), .notAlphabetic, BitVec.ofNat 32 (leadingAlpha c))] o :=
  alphaCheck hc (fun _ hbad => by rw [h, constructType_of_leastBad hbad])
    (fun halpha => succeeded (by rw [h, constructType_of_alphaCode halpha]))

end Reports

/-! ### The six tables (R267) -/

theorem execCtFromText_reports (s : State) :
    Reports s (checksOf .ctFromText s) (execCtFromText s) :=
  .checkDecide execCtFromText_of_overIbuf fun hfits =>
  .checkDecide execCtFromText_of_short fun hmin =>
  .constructed (bytesBE32_readWord s .ibuf 0)
    (execCtFromText_of_checked (not_lt.mp hmin) (not_lt.mp hfits))

theorem execCrcBuf_reports (s : State) : Reports s (checksOf .crcBuf s) (execCrcBuf s) :=
  .checkDecide execCrcBuf_of_overIbuf fun hfits =>
  .succeeded (execCrcBuf_of_fits (not_lt.mp hfits))

theorem execChunkNew_reports (s : State) : Reports s (checksOf .chunkNew s) (execChunkNew s) :=
  .check (fun hunset => execChunkNew_of_typeUnset ((Bool.not_eq_true' _).mp hunset)) fun hset =>
  have htype : s.typeValid = true := (Bool.not_eq_false' _).mp hset
  .checkDecide (execChunkNew_of_overPayload htype) fun hfits =>
  .succeeded (execChunkNew_of_fits htype (not_lt.mp hfits))

theorem execChunkSerialize_reports (s : State) :
    Reports s (checksOf .chunkSerialize s) (execChunkSerialize s) :=
  .check (fun hnone => execChunkSerialize_of_noChunk ((Bool.not_eq_true' _).mp hnone)) fun hchunk =>
  .succeeded (execChunkSerialize_of_chunk ((Bool.not_eq_false' _).mp hchunk))

theorem execChunkParse_reports (s : State) :
    Reports s (checksOf .chunkParse s) (execChunkParse s) :=
  .checkDecide execChunkParse_of_overIbuf fun hover =>
  .checkDecide execChunkParse_of_short fun hshort =>
  have hfits : s.inLen.toNat ≤ bufferSize s .ibuf := not_lt.mp hover
  have hmin : 12 ≤ s.inLen.toNat := not_lt.mp hshort
  .alphaCheck (bytesBE32_readWord s .ibuf 4) (fun _ => execChunkParse_of_leastBad hmin hfits)
    fun halpha =>
  .checkDecide
    (fun htrunc => (execChunkParse_of_alphaCode hmin hfits halpha).trans (if_pos htrunc))
    fun hframe =>
  have hframed := execChunkParse_of_framed hfits halpha (not_lt.mp hframe)
  .checkDecide (fun hcrc => hframed.trans (if_pos hcrc))
    fun hcrc => .succeeded (hframed.trans (if_neg hcrc))

/-- Every command reports what its table says. -/
theorem exec_reports (i : Instr) (s : State) : Reports s (checksOf i s) (exec i s) := by
  cases i with
  | ctFromBytes => exact .constructed rfl rfl
  | ctFromText => exact execCtFromText_reports s
  | crcBuf => exact execCrcBuf_reports s
  | chunkNew => exact execChunkNew_reports s
  | chunkSerialize => exact execChunkSerialize_reports s
  | chunkParse => exact execChunkParse_reports s

/-- Settles O41: an illegal word reports its own error, a command what its table says. -/
theorem firstFailingCheckIsReported : Obligations.FirstFailingCheckIsReported := by
  intro s
  split
  · next hillegal => exact runPending_illegal hillegal
  · next i hlegal =>
    rw [runPending_legal hlegal]
    split
    · next hfirst => exact (exec_reports i s).error hfirst
    · next hnone => exact (exec_reports i s).success hnone

end Sys2Proof.Machine
end

section
/-! PROOFS. Hazards and reset: what holds still between acceptance and commit (O46), the commit as
the decoded command (O4), the write that races with it (O48), and the state after reset (O56, O57). -/

namespace Sys2Proof.Machine

open Sys2Proof.Claims

/-! ### Between acceptance and commit (R294) -/

/-- A step after which the command is still in flight was the host's or an idle edge: a commit and a
falling rst_n both end BUSY. -/
theorem step_stillBusy {s t : State} (hp : s.pendValid = true) (hr : s.rst = .high)
    (h : step s = .next t) (hbusy : t.pendValid = true) : OnlyHostSideChanged s t := by
  have hdrop : OnlyHostSideChanged s (dropTurn s) := rfl
  obtain ⟨-, rfl⟩ | ⟨-, -, -, hrun⟩ | ⟨-, rfl⟩ | ⟨-, -, rfl⟩ | ⟨-, hlow, -⟩ | ⟨-, rfl⟩ :=
    step_cases h
  · exact hdrop.trans (hostTurn_busy (s := dropTurn s) hp)
  · obtain ⟨u, hu, hdone⟩ := runPending_pendValid (dropTurn s)
    cases hrun.symm.trans hu
    exact bit_absurd hdone hbusy
  · rw [noteEdge_of_high (s := dropTurn s) hr]
    exact hdrop
  · exact bit_absurd (assertReset_pendValid _) hbusy
  · cases hr.symm.trans hlow
  · exact hdrop

theorem OnlyHostSideChanged.readReg_eq {s t : State} (h : OnlyHostSideChanged s t) {r : Reg}
    (hr : r ≠ .status) : readReg t r = readReg s r := by
  rw [h.eq]
  cases r with
  | status => exact absurd rfl hr
  | _ => rfl

theorem OnlyHostSideChanged.readByte_eq {s t : State} (h : OnlyHostSideChanged s t) (b : Buffer)
    (i : Nat) : readByte t b i = readByte s b i := by
  rw [h.eq]
  cases b <;> rfl

/-- Settles O46: such a step changes only OVR and the host's own side. -/
theorem preCommandStateUntilCommit : Obligations.PreCommandStateUntilCommit := by
  intro s t hp hr h hbusy
  have hkept := step_stillBusy hp hr h hbusy
  exact ⟨by rw [hkept.eq], by rw [hkept.eq], hkept.pendCmd_eq, fun _ => hkept.readReg_eq,
    hkept.readByte_eq⟩

/-! ### The commit and the write that races with it (R293, R295, R298) -/

/-- Settles O4: the committing edge takes its turn off the schedule and runs the decoded command. -/
theorem stepRunsTheDecodedCommand : Obligations.StepRunsTheDecodedCommand :=
  fun s _ hn hp hr hd => (step_commit hn hp hr).trans (runPending_legal (s := dropTurn s) hd)

/-- The committing edge of CRC_BUF on an input that fits IBUF (R185). -/
theorem step_crcBuf {s : State} (hn : nextTurn s = .clk true) (hp : s.pendValid = true)
    (hr : s.rst = .high) (hc : s.pendCmd = encode .crcBuf)
    (hfits : s.inLen.toNat ≤ bufferSize s .ibuf) :
    step s = .next (succeed (setCrcOut (crc32 (inputBytes s)) (dropTurn s))) := by
  have hd : decode s.pendCmd = some .crcBuf := by rw [hc, decode_encode]
  have hbytes : inputBytes (dropTurn s) = inputBytes s := readBytes_congr fun _ _ => rfl
  rw [stepRunsTheDecodedCommand s _ hn hp hr hd, ← hbytes]
  exact execCrcBuf_of_fits (s := dropTurn s) hfits

/-- The host's write to IN_LEN, the last thing it has to do. -/
theorem step_writeInLen {s : State} {v : Word} (hn : nextTurn s = .host) (hr : s.rst = .high)
    (hh : s.host = assemble [.w32 (.reg .inLen) v]) :
    step s =
      .next (setHost [] (respond okayWrite
        (if s.pendValid then dropWrite (dropTurn s) else setInLen v (dropTurn s)))) := by
  rw [step_hostAct hn hr hh, hostAct, transact, busAccess_writeReg (r := .inLen) rfl rfl rfl]
  rfl

theorem run_two {s t u : State} (h : step s = .next t) (h' : step t = .next u) :
    Host.Core.run Sys2Proof.core 2 s = .next u :=
  (run_succ 1 s t h).trans (run_succ 0 t u h')

/-- Settles O48: after the commit BUSY = 0 and the write lands; before it the write is dropped, and
the commit reads the input it would have read. -/
theorem writeRaceHasBothOutcomes : Obligations.WriteRaceHasBothOutcomes := by
  intro s hp hc hr hfits hh c
  have hinput {t : State} (hsame : OnlyHostSideChanged s t) : crc32 (inputBytes t) = c := by
    rw [inputBytes, inCount, hsame.inLen_eq]
    exact congrArg crc32 (readBytes_congr fun i _ => hsame.readByte_eq .ibuf (0 + i))
  constructor
  · have hcommit := step_crcBuf (s := { s with turns := [.clk true, .host] }) rfl hp hr hc hfits
    exact ⟨_, run_two hcommit (step_writeInLen rfl hr hh), rfl, rfl, hinput rfl, rfl, rfl⟩
  · have hdropped := step_writeInLen (s := { s with turns := [.host, .clk true] }) rfl hr hh
    rw [if_pos hp] at hdropped
    exact ⟨_, run_two hdropped (step_crcBuf rfl hp hr hc hfits), rfl, rfl, hinput rfl, rfl, rfl⟩

/-! ### After reset (R290, R291) -/

/-- The reset empties the buffers' memories and counts itself, so a byte is the new reset's draw. -/
theorem readByte_releaseReset (s : State) (b : Buffer) (i : Nat) :
    readByte (releaseReset s) b i = Config.freeByte (s.draws + 1) b i := by
  cases b <;> rfl

/-- Settles O56. -/
theorem resetLeavesBuffersFree : Obligations.ResetLeavesBuffersFree := by
  intro s t b i hn hr h
  rw [step_leavesReset h ⟨hn, hr⟩, readByte_releaseReset, dropTurn_draws]

/-- Settles O57: the reset table for any legal MAX_PAYLOAD, the reference one of R8 among them. -/
theorem resetMeetsTheInvariant : Obligations.ResetMeetsTheInvariant :=
  ⟨fun _ d hm => Inv.resetOf hm d, Inv.resetOf (by decide) 0⟩

end Sys2Proof.Machine
end

section
/-! PROOFS. The CRC sees every burst of at most 32 bits (O29). -/

namespace Sys2Proof.Machine

open Sys2Proof.Claims

/-! ### Bit strings of at most 32 bits as words -/

/-- The word whose low bits are the bits of `d`, the first in bit 0. -/
def wordOfBits (d : List Bool) : Word := (BitVec.ofBoolListLE d).zeroExtend 32

theorem lowBits_wordOfBits {d : List Bool} (h : d.length ≤ 32) :
    lowBits (wordOfBits d) d.length = d := by
  rw [wordOfBits, lowBits_zeroExtend _ h]
  refine List.ext_getElem (by simp [lowBits]) fun i _ hi => ?_
  simp only [lowBits, List.getElem_map, List.getElem_range, BitVec.getLsbD_ofBoolListLE,
    List.getD_eq_getElem _ _ hi]

/-- A word of `d` has no bit beyond those of `d`. -/
theorem wordOfBits_shift (d : List Bool) : wordOfBits d >>> d.length = 0#32 := by
  ext i
  simp [wordOfBits]

theorem lowBits_injective {w : Nat} : Function.Injective fun x : BitVec w => lowBits x w :=
  fun _ _ h => BitVec.eq_of_getLsbD_eq fun i hi =>
    List.map_inj_left.mp h i (List.mem_range.mpr hi)

/-- A byte string is determined by its bits. -/
theorem bitsOf_injective {s t : List Byte} (hlen : s.length = t.length)
    (h : bitsOf s = bitsOf t) : s = t := by
  induction s generalizing t with
  | nil => exact (List.length_eq_zero_iff.mp hlen.symm).symm
  | cons b s ih =>
    cases t with
    | nil => cases hlen
    | cons c t =>
      rw [bitsOf_cons, bitsOf_cons] at h
      obtain ⟨hbyte, hrest⟩ := List.append_inj h rfl
      rw [lowBits_injective hbyte, ih (Nat.succ.inj hlen) hrest]

theorem getElem?_bitsOf (s : List Byte) (i : Nat) :
    (bitsOf s)[i]? = if i < 8 * s.length then some (bitOf s i) else none := by
  by_cases hi : i < 8 * s.length
  · simp [bitsOf, hi]
  · simp [bitsOf, hi]

/-! ### The register and a burst (R181, R183) -/

/-- Up to 32 bits are fed by an exclusive or at the start and as many bit steps. -/
theorem foldl_crcFeed_eq_crcBits {d : List Bool} (h : d.length ≤ 32) (r : Word) :
    d.foldl crcFeed r = crcBits (r ^^^ wordOfBits d) d.length := by
  rw [crcBits_xor_of_shift_eq_zero r (wordOfBits_shift d), lowBits_wordOfBits h]

/-- The register after a bit string determines the register before it. -/
theorem foldl_crcFeed_injective (d : List Bool) :
    Function.Injective fun r : Word => d.foldl crcFeed r := by
  induction d with
  | nil => exact fun _ _ h => h
  | cons b d ih =>
    have hfeed (r : Word) : crcFeed r b = crcBits (r ^^^ wordOfBits [b]) 1 :=
      foldl_crcFeed_eq_crcBits (d := [b]) (by simp) r
    intro r r' h
    have hstep : crcFeed r b = crcFeed r' b := ih h
    rw [hfeed, hfeed] at hstep
    exact (BitVec.xor_left_inj _).mp (crcBits_injective 1 hstep)

/-- Up to 32 bits enter the register without loss: the bit steps can be undone, and so can the
exclusive or. -/
theorem foldl_crcFeed_inj_of_length_le {d e : List Bool} (hlen : d.length = e.length)
    (hle : d.length ≤ 32) {r : Word} (h : d.foldl crcFeed r = e.foldl crcFeed r) : d = e := by
  have hle' : e.length ≤ 32 := hlen ▸ hle
  rw [foldl_crcFeed_eq_crcBits hle, foldl_crcFeed_eq_crcBits hle', ← hlen] at h
  have hword : wordOfBits d = wordOfBits e := (BitVec.xor_right_inj r).mp (crcBits_injective _ h)
  rw [← lowBits_wordOfBits hle, hword, hlen, lowBits_wordOfBits hle']

/-- Bit strings that agree outside a window of 32 bits and leave the same register are equal: before
the window the register is the same, after it nothing is lost, and in it nothing is lost either. -/
theorem eq_of_foldl_crcFeed_eq {d e : List Bool} {k : Nat} (hlen : d.length = e.length)
    (hout : ∀ i, d[i]? ≠ e[i]? → k ≤ i ∧ i < k + 32) {r : Word}
    (h : d.foldl crcFeed r = e.foldl crcFeed r) : d = e := by
  have hsame {i : Nat} (hi : ¬ (k ≤ i ∧ i < k + 32)) : d[i]? = e[i]? := by
    by_contra hne
    exact hi (hout i hne)
  have hbefore : d.take k = e.take k := by
    refine List.ext_getElem? fun i => ?_
    rw [List.getElem?_take, List.getElem?_take]
    split
    · exact hsame (by omega)
    · rfl
  have hafter : (d.drop k).drop 32 = (e.drop k).drop 32 := by
    refine List.ext_getElem? fun i => ?_
    simp only [List.getElem?_drop]
    exact hsame (by omega)
  have hsplit (x : List Bool) :
      x = x.take k ++ ((x.drop k).take 32 ++ (x.drop k).drop 32) := by
    rw [List.take_append_drop, List.take_append_drop]
  rw [hsplit d, hsplit e, hbefore, hafter] at h ⊢
  simp only [List.foldl_append] at h
  rw [foldl_crcFeed_inj_of_length_le (by simp [hlen]) (List.length_take_le ..)
    (foldl_crcFeed_injective _ h)]

/-- Settles O29: equal CRCs mean equal registers, so equal bits, so equal strings. -/
theorem crcDetectsEveryShortBurst : Obligations.CrcDetectsEveryShortBurst := by
  refine ⟨crc32_nil, fun s t k hlen hne hburst heq => hne (bitsOf_injective hlen ?_)⟩
  rw [crcIsBitSerial, crcIsBitSerial] at heq
  refine eq_of_foldl_crcFeed_eq (k := k) (by simp [bitsOf, hlen]) (fun i hi => hburst i ?_)
    ((BitVec.xor_left_inj _).mp heq)
  intro hbit
  apply hi
  rw [getElem?_bitsOf, getElem?_bitsOf, hlen, hbit]

end Sys2Proof.Machine
end

section
/-! PROOFS. The host's writes to the registers and the buffers: acceptance (O6), operand writes (O12),
writes that are ignored (O11) or dropped (O7), and the buffers' write rights (O14). -/

namespace Sys2Proof.Machine

/-! ### Register writes (R33, R39, R40, R87, R295) -/

/-- The registers whose write does something. -/
def hostWritable : List Reg := [.cmd, .ctIn, .inLen]

/-- The addresses of the writable registers. -/
theorem addr_hostWritable_iff (a : Word) :
    (∃ r ∈ hostWritable, a = regAddr r) ↔ a = 0x00 ∨ a = 0x10 ∨ a = 0x14 := by
  simp [hostWritable, regAddr, regOffset]

theorem writeReg_readOnly {r : Reg} (h : r ∉ hostWritable) (w : Word) (s : State) :
    writeReg r w s = s := by
  cases r with
  | cmd | ctIn | inLen => exact absurd (by decide) h
  | _ => rfl

theorem writeReg_busy {r : Reg} (h : r ∈ hostWritable) (w : Word) {s : State}
    (hp : s.pendValid = true) : writeReg r w s = dropWrite s := by
  cases r with
  | cmd | ctIn | inLen => exact if_pos hp
  | _ => exact absurd h (by decide)

/-- Settles O6: the write to CMD is `accept`. -/
theorem acceptanceOfACommand : Obligations.AcceptanceOfACommand := by
  intro s w hp
  rw [busAccess_writeReg (r := .cmd) rfl rfl rfl, writeReg, hp]
  rfl

/-- Settles O12: the two writes are `setCtIn` and `setInLen`. -/
theorem operandRegisterWrites : Obligations.OperandRegisterWrites := by
  intro s w hp
  have hidle : ¬ s.pendValid = true := Bool.eq_false_iff.mp hp
  rw [busAccess_writeReg (r := .ctIn) rfl rfl rfl, busAccess_writeReg (r := .inLen) rfl rfl rfl,
    writeReg, writeReg, if_neg hidle, if_neg hidle]
  exact ⟨rfl, rfl⟩

/-! ### Accesses without effect (R87) -/

section

variable {q : Request} (hw : windowOf q.addr = none) (hs : q.size = .four)
  (ha : q.addr.extractLsb' 0 2 = 0)

include hw hs ha

/-- An aligned size-4 access to REG is performed (R86). -/
theorem busAccess_reg (s : State) : busAccess q s = regAccess q s := by
  simp [busAccess, hw, regLegal, hs, ha]

theorem busAccess_readReserved (hk : q.kind = .read) (hr : 0x3C ≤ offsetOf q.addr) (s : State) :
    busAccess q s = (s, okayRead 0) := by
  simp only [busAccess_reg hw hs ha, regAccess, hk, regAt_reserved hr]

/-- A write to REG that reaches no writable register is ignored, at a reserved offset as at a
read-only register. -/
theorem busAccess_writeIgnored (hk : q.kind = .write)
    (hne : ¬ ∃ r ∈ hostWritable, q.addr = regAddr r) (s : State) :
    busAccess q s = (s, okayWrite) := by
  cases hr : regAt (offsetOf q.addr) with
  | none => simp only [busAccess_reg hw hs ha, regAccess, hk, hr]
  | some r =>
    have haddr : q.addr = regAddr r := addr_of_regAt hw hr
    have hro : r ∉ hostWritable := fun hmem => hne ⟨r, hmem, haddr⟩
    rw [busAccess_writeReg hk hs haddr, writeReg_readOnly hro]

end

/-- The offsets of the writable registers. -/
theorem offset_hostWritable {a : Word} (h : ∃ r ∈ hostWritable, a = regAddr r) :
    offsetOf a ∈ [0x00, 0x10, 0x14] := by
  obtain rfl | rfl | rfl := (addr_hostWritable_iff a).mp h <;> decide

/-- Settles O11: the offsets of the two write clauses are those of no writable register. -/
theorem reservedAndReadOnlyRegisters : Obligations.ReservedAndReadOnlyRegisters := by
  intro s a w hw ha
  have hignored (hoff : offsetOf a ∉ [0x00, 0x10, 0x14]) :
      busAccess { kind := .write, addr := a, size := .four, wdata := w } s = (s, okayWrite) :=
    busAccess_writeIgnored (q := ⟨.write, a, .four, w⟩) hw rfl ha rfl
      (fun h => hoff (offset_hostWritable h)) s
  refine ⟨fun hres => ⟨?_, hignored ?_⟩, fun hro => hignored ?_, fun hcmd => ?_⟩
  · exact busAccess_readReserved (q := ⟨.read, a, .four, w⟩) hw rfl ha rfl hres s
  · intro hmem
    have hlow : ∀ n ∈ [0x00, 0x10, 0x14], n < 0x3C := by decide
    exact (hlow _ hmem).not_ge hres
  · intro hmem
    have hdisjoint : ∀ n ∈ [0x00, 0x10, 0x14],
        n ∉ [0x04, 0x08, 0x0C, 0x18, 0x1C, 0x20, 0x24, 0x28, 0x2C, 0x30, 0x34, 0x38] := by decide
    exact hdisjoint _ hmem hro
  · have haddr : a = regAddr .cmd := addr_of_regAt hw (by rw [hcmd]; rfl)
    exact busAccess_readReg (q := ⟨.read, a, .four, w⟩) rfl rfl haddr s

/-! ### Writes to a buffer (R89, R295) -/

theorem busAccess_writeIbuf_busy {q : Request} {s : State} (hk : q.kind = .write)
    (hs : q.size = .one) (hw : windowOf q.addr = some .ibuf)
    (ho : offsetOf q.addr < bufferSize s .ibuf) (hp : s.pendValid = true) :
    busAccess q s = (dropWrite s, okayWrite) := by
  rw [busAccess_writeIbuf hk hs hw ho, if_pos hp]

/-- The host writes neither OBUF nor PBUF, whatever the shape of the access. -/
theorem busAccess_writeRefused {q : Request} {b : Buffer} (hk : q.kind = .write)
    (hw : windowOf q.addr = some b) (hb : b ≠ .ibuf) (s : State) :
    busAccess q s = (s, slvErr) := by
  cases hl : bufLegal s b q with
  | false => exact busAccess_misshapenBuf hw hl
  | true =>
    cases b with
    | ibuf => exact absurd rfl hb
    | obuf | pbuf => simp [busAccess, hw, hl, bufAccess, hk]

/-- Settles O7: a write to a writable register or to an IBUF byte is dropped; the others are ignored
as they are while BUSY = 0. -/
theorem busyWritesAreDropped : Obligations.BusyWritesAreDropped := by
  intro s q hp hk
  refine ⟨fun hs haddr => ?_, fun hs hw ho => busAccess_writeIbuf_busy hk hs hw ho hp,
    fun hs hw ha hcmd hct hlen => ?_⟩
  · obtain ⟨r, hmem, hr⟩ := (addr_hostWritable_iff q.addr).mpr haddr
    rw [busAccess_writeReg hk hs hr, writeReg_busy hmem q.wdata hp]
    rfl
  · have hnone : ¬ ∃ r ∈ hostWritable, q.addr = regAddr r := by
      rw [addr_hostWritable_iff]
      exact not_or.mpr ⟨hcmd, not_or.mpr ⟨hct, hlen⟩⟩
    exact busAccess_writeIgnored hw hs ha hk hnone s

/-- A write to IBUF leaves the bytes of the other buffers, and the other bytes of IBUF. -/
theorem readByte_setIbufByte_eq_ite (k : Nat) (v : Byte) (s : State) (b : Buffer) (i : Nat) :
    readByte (setIbufByte k v s) b i = if b = .ibuf ∧ i = k then v else readByte s b i := by
  cases b with
  | ibuf => simpa using readByte_setIbufByte k v s i
  | obuf | pbuf => simp [readByte, bufferCells]

/-- Settles O14: clause by clause, the writes to IBUF while BUSY = 0 and while BUSY = 1, the refused
writes, and the reads. -/
theorem bufferWriteRights : Obligations.BufferWriteRights := by
  intro s q
  refine ⟨fun hk hs hw ho hp => ⟨_, ?_, readByte_setIbufByte_eq_ite _ _ s⟩,
    busAccess_writeIbuf_busy, fun hk hw => ?_, fun b hk hs hw ho => busAccess_readBuf hk hs hw ho⟩
  · rw [busAccess_writeIbuf hk hs hw ho, if_neg (Bool.eq_false_iff.mp hp)]
    rfl
  · obtain hw | hw := hw <;> exact busAccess_writeRefused hk hw (by decide) s

end Sys2Proof.Machine
end

section
/-! PROOFS. The three steps of a reset (O55). -/

namespace Sys2Proof.Machine

/-! ### The moves of rst_n (R290) -/

theorem step_rstFall {s : State} (hn : nextTurn s = .rstFall) (hr : s.rst = .high) :
    step s = .next (assertReset (dropTurn s)) := by
  simp only [step, hn, resetFall, dropTurn_rst, hr]

theorem step_rstRise {s : State} (hn : nextTurn s = .rstRise) (hr : s.rst = .low true) :
    step s = .next (releaseReset (dropTurn s)) := by
  simp only [step, hn, resetRise, dropTurn_rst, hr]

/-! ### The words computed from the registers after reset (R34, R42, R44) -/

theorem statusWord_releaseReset (s : State) : statusWord (releaseReset s) = 0 :=
  statusWord_resetOf s.caps (s.draws + 1)

theorem props_unset (t : Word) : props t false = 0 := rfl

/-- Settles O55: each step is one operation of the reset line; after the release every register is
the reset table's, and STATUS, PROPS and CH_PROPS are computed from those. -/
theorem resetTable : Obligations.ResetTable := by
  refine ⟨fun s hn hr => step_rstFall hn hr, fun s hn hr => step_hostIdle hn (.inl hr),
    fun s t hn hr h => ?_, fun s hn hr => ⟨_, step_rstRise hn hr⟩⟩
  rw [step_leavesReset h ⟨hn, hr⟩]
  exact ⟨statusWord_releaseReset _, rfl, rfl, rfl, rfl, rfl, rfl, props_unset _, rfl, rfl,
    props_unset _, rfl, rfl, rfl, rfl, rfl, rfl, rfl⟩

end Sys2Proof.Machine
end
